-- ==== Sys2Proof/Word.lean ====
section
/-! DEFINITION. The byte, the byte sequence and the 32-bit word of the block (spec/00_scope.md R11, R13, R14). -/

namespace Sys2Proof

/-- A byte, bit 0 least significant (R13). -/
abbrev Byte := BitVec 8

/-- A finite sequence of bytes, indexed from 0 (R14). -/
abbrev Bytes := List Byte

/-- A statistics counter or a status register: `CNT_WIDTH` is 32 (R11, R30). -/
abbrev Word := BitVec 32

end Sys2Proof
end

