-- ==== Sys2Proof/Config.lean ====
section
/-! DEFINITION. The wire constants and the build-time parameters (spec/00_scope.md R8 to R12, spec/30_encoding.md R60, R62). -/

namespace Sys2Proof

/-- What the reassembler keeps when it finds no header in 5 or more bytes (R10). -/
inductive NohdrPolicy where
  | discardAll
  | keepTailAA
deriving DecidableEq, Repr

/-- The parameters the spec leaves to a build: R8, R12 and R10. No operation changes them (R31). -/
structure Params where
  /-- `CHUNK_MAX`, the longest chunk of one `FEED` (R8). -/
  chunkMax : Nat
  /-- `DEC_IN_MAX`, the longest input of one `DECODE` (R12). -/
  decInMax : Nat
  /-- `NOHDR_POLICY` (R10). -/
  nohdrPolicy : NohdrPolicy
deriving DecidableEq, Repr

/-- The bounds R8 and R12 put on the parameters. -/
abbrev Params.Legal (p : Params) : Prop :=
  1 ≤ p.chunkMax ∧ p.chunkMax ≤ 65276 ∧ 260 ≤ p.decInMax

/-- `BUF_CAP` (R9). -/
def Params.bufCap (p : Params) : Nat := 259 + p.chunkMax

namespace Config

/-- `HDR[0]` (R60). -/
def hdr0 : Byte := 0xAA#8

/-- `HDR[1]` (R60). -/
def hdr1 : Byte := 0x55#8

/-- `MAX_PAYLOAD` (R62). -/
def maxPayload : Nat := 255

/-- `MIN_FRAME` (R62). -/
def minFrame : Nat := 5

/-- `MAX_FRAME` (R62). -/
def maxFrame : Nat := 260

/-- Uninterpreted: fixes `CHUNK_MAX` of the machine `State.reset` stands for (R8 leaves it OPEN). DESIGN CHOICE, safe, log entry 1. -/
opaque chunkMaxSeed : Nat

/-- Uninterpreted: fixes `DEC_IN_MAX` of the machine `State.reset` stands for (R12 leaves it OPEN). DESIGN CHOICE, safe, log entry 1. -/
opaque decInMaxSeed : Nat

/-- The parameters of the machine `State.reset` stands for. `CHUNK_MAX` is some number from 1 to 65276 and
`DEC_IN_MAX` some number from 260 up; nothing says which. `NOHDR_POLICY` is the spec's default (R10). -/
def built : Params where
  chunkMax := chunkMaxSeed % 65276 + 1
  decInMax := decInMaxSeed + 260
  nohdrPolicy := .discardAll

end Config

end Sys2Proof
end

