-- ==== Sys2Proof/Machine/Operands.lean ====
section
/-! DEFINITION. Reading operands: the bytes and slices of a sequence, the fields of a frame, the limits on an operand's length
(spec/00_scope.md R14, spec/30_encoding.md R61, R65, R76). -/

namespace Sys2Proof.Machine

/-- `s[i]`. Every rule checks the length first (R14); past the end this answers 0x00, which no rule reads (log entry 8). -/
def byteAt (s : Bytes) (i : Nat) : Byte := s.getD i 0x00#8

/-- `s[i..j)` (R14). -/
def slice (s : Bytes) (i j : Nat) : Bytes := (s.drop i).take (j - i)

/-- Whether `len(s) > n`. It looks at no more of `n` than `s` has bytes, so that it evaluates on an uninterpreted limit. -/
def longerThan : Bytes → Nat → Bool
  | [], _ => false
  | _ :: _, 0 => true
  | _ :: s, n + 1 => longerThan s n

/-- Offsets 0 and 1 hold the header `AA 55` (R60, R61). -/
def hasHeader (s : Bytes) : Bool :=
  byteAt s 0 == Config.hdr0 && byteAt s 1 == Config.hdr1

/-- The CMD field, offset 2 (R61). -/
def cmdField (s : Bytes) : Byte := byteAt s 2

/-- The LEN field, offset 3, as an unsigned integer that never wraps (R61, R65). -/
def lenField (s : Bytes) : Nat := (byteAt s 3).toNat

/-- `total = 4 + L + 1` (R65, R76). -/
def frameTotal (s : Bytes) : Nat := 4 + lenField s + 1

/-- `find_hdr`: the least index at which `AA 55` stands (R106). -/
def findHdr : Bytes → Option Nat
  | a :: b :: s =>
    if a = Config.hdr0 ∧ b = Config.hdr1 then some 0 else (findHdr (b :: s)).map (· + 1)
  | _ => none

end Sys2Proof.Machine
end

