-- ==== Sys2Proof/Machine/Frame.lean ====
section
/-! DEFINITION. The packet codec as pure functions (spec/40_codec.md R85 to R89) and the classifier of command
identifiers (spec/30_encoding.md R72). -/

namespace Sys2Proof.Machine

/-- `Packet{cmd, payload}` (spec/00_scope.md R17). -/
structure Packet where
  cmd : Byte
  payload : Bytes
deriving DecidableEq, Repr

/-- The error `ENCODE` raises (R140, R141). -/
inductive EncodeError where
  | payloadTooLarge
deriving DecidableEq, Repr

/-- The errors `DECODE` raises; none carries further information (R142, R145). -/
inductive DecodeError where
  | incomplete
  | badHeader
  | checksumMismatch
deriving DecidableEq, Repr

/-- `XOR(s)`, with `XOR([]) = 0x00` (spec/00_scope.md R15). -/
def xorFold (s : Bytes) : Byte := s.foldl (fun acc b => acc ^^^ b) 0x00#8

/-- `CK(frame, L) = XOR(frame[0..4+L))` (R85). -/
def checksum (frame : Bytes) (len : Nat) : Byte := xorFold (slice frame 0 (4 + len))

/-- Header, CMD, LEN and payload of a frame (R61, R88). -/
def frameBody (cmd : Byte) (payload : Bytes) : Bytes :=
  [Config.hdr0, Config.hdr1, cmd, BitVec.ofNat 8 payload.length] ++ payload

/-- The whole frame: the body and its checksum byte (R61, R88). -/
def buildFrame (cmd : Byte) (payload : Bytes) : Bytes :=
  frameBody cmd payload ++ [xorFold (frameBody cmd payload)]

/-- `ENCODE` less its append to TXS (R88). -/
def encodePacket (cmd : Byte) (payload : Bytes) : Except EncodeError Bytes :=
  if payload.length > Config.maxPayload then .error .payloadTooLarge
  else .ok (buildFrame cmd payload)

/-- `DECODE` less its operand limit, the checks in the spec's order (R89, R149; spec/90_conflicts.md C6, C7). -/
def decodePacket (buf : Bytes) : Except DecodeError Packet :=
  if buf.length < Config.minFrame then .error .incomplete
  else if hasHeader buf = false then .error .badHeader
  else if buf.length < frameTotal buf then .error .incomplete
  else if byteAt buf (4 + lenField buf) ≠ checksum buf (lenField buf) then .error .checksumMismatch
  else .ok { cmd := cmdField buf, payload := slice buf 4 (4 + lenField buf) }

/-- The tagged variant of command identifiers (R72). -/
inductive CmdClass where
  | ping
  | ledControl
  | emergencyStop
  | unrecognized (cmd : Byte)
deriving DecidableEq, Repr

/-- `classify(cmd)` (R72). No operation branches on it (R73). -/
def classify (cmd : Byte) : CmdClass :=
  if cmd = 0x01#8 then .ping
  else if cmd = 0x02#8 then .ledControl
  else if cmd = 0xFF#8 then .emergencyStop
  else .unrecognized cmd

end Sys2Proof.Machine
end

