-- ==== Sys2Proof/Machine/Port.lean ====
section
/-! DEFINITION. What crosses the block's client port: requests, events and results (spec/30_encoding.md R78, R79, R82,
spec/60_exceptions.md R140, spec/70_reset_and_hazards.md R163). -/

namespace Sys2Proof.Machine

/-- An operation request; the fields an operation does not use are ignored (R78). -/
structure Request where
  op : BitVec 3
  cmd : Byte
  data : Bytes
  idx : BitVec 2
deriving DecidableEq, Repr

/-- What the environment can make happen between two operations. -/
inductive Event where
  /-- An operation request (R78). -/
  | request (r : Request)
  /-- A command frame a client asks for by its CMD and payload: the pseudo-operations of R82. The checksum is never
  an operand (R67). DESIGN CHOICE, log entry 5. -/
  | frame (cmd : Byte) (payload : Bytes)
  /-- `RESET`, which is not an operation (R79, R163). -/
  | reset
deriving DecidableEq, Repr

/-- The result of an operation, one shape per row of R78's table of results. -/
inductive Response where
  | encoded (r : Except EncodeError Bytes)
  | decoded (r : Except DecodeError Packet)
  | fed (packets : List Packet)
  | status (value : Word)
deriving DecidableEq, Repr

end Sys2Proof.Machine
end

