-- ==== Sys2Proof/Syntax.lean ====
section
/-! DEFINITION. The instructions: one constructor per row of spec/opcode_table.json. -/

namespace Sys2Proof

/-- The rows of the opcode table: the eight values of the `op` field (spec/30_encoding.md R79) with the request
fields each one uses (R78), and the four command-frame rows (R68 to R71) with the frame's free fields (R61). -/
inductive Instr where
  /-- `ENCODE(cmd, payload)`, op 001 (R88). -/
  | encode (cmd : Byte) (payload : Bytes)
  /-- `DECODE(buf)`, op 010 (R89). -/
  | decode (buf : Bytes)
  /-- `FEED(chunk)`, op 011 (R105). -/
  | feed (chunk : Bytes)
  /-- `READ_STATUS(idx)`, op 100 (R131). -/
  | readStatus (idx : BitVec 2)
  /-- Reserved op 000 (R80). -/
  | reservedOp000
  /-- Reserved op 101 (R80). -/
  | reservedOp101
  /-- Reserved op 110 (R80). -/
  | reservedOp110
  /-- Reserved op 111 (R80). -/
  | reservedOp111
  /-- A `PING` frame, CMD 0x01 (R68). -/
  | ping (payload : Bytes)
  /-- A `LED_CONTROL` frame, CMD 0x02 (R69, R75). -/
  | ledControl (payload : Bytes)
  /-- An `EMERGENCY_STOP` frame, CMD 0xFF (R70). -/
  | emergencyStop (payload : Bytes)
  /-- A frame with a reserved CMD: 0x00 or 0x03 to 0xFE (R71). -/
  | reservedCmd (cmd : Byte) (payload : Bytes)
deriving DecidableEq, Repr

end Sys2Proof
end

