-- ==== Sys2Proof/Decode.lean ====
section
/-! DEFINITION. Decoding requests, command frames and the words of spec/opcode_table.json, and after it the encoder
(spec/30_encoding.md R61, R68 to R72, R78, R79). -/

namespace Sys2Proof

open Sys2Proof.Machine

/-- The `op` field selects the operation (R79); the last arm is op 111. -/
def decodeRequest (r : Request) : Instr :=
  match r.op.toNat with
  | 0 => .reservedOp000
  | 1 => .encode r.cmd r.data
  | 2 => .decode r.data
  | 3 => .feed r.data
  | 4 => .readStatus r.idx
  | 5 => .reservedOp101
  | 6 => .reservedOp110
  | _ => .reservedOp111

/-- The frame row that a CMD byte belongs to (R68 to R72). -/
def decodeCommand (cmd : Byte) (payload : Bytes) : Instr :=
  match classify cmd with
  | .ping => .ping payload
  | .ledControl => .ledControl payload
  | .emergencyStop => .emergencyStop payload
  | .unrecognized c => .reservedCmd c payload

/-- The instruction an event carries; `RESET` carries none (R79). -/
def decodeEvent : Event → Option Instr
  | .request r => some (decodeRequest r)
  | .frame cmd payload => some (decodeCommand cmd payload)
  | .reset => none

/-- The frame row that stands at the front of any byte sequence, and the bytes after its frame; what is no frame is rejected
by the name of the check that fails (R74, R76, R89). -/
def decodeFrame (bs : Bytes) : Except DecodeError (Instr × Bytes) :=
  match decodePacket bs with
  | .ok p => .ok (decodeCommand p.cmd p.payload, bs.drop (frameTotal bs))
  | .error e => .error e

/-- The `n` lowest bytes of a number, lowest first. -/
def bytesOfNat : Nat → Nat → Bytes
  | 0, _ => []
  | n + 1, w => BitVec.ofNat 8 w :: bytesOfNat n (w / 256)

/-- The event that a word of spec/opcode_table.json stands for, every operand the table gives no bits being zero or empty. A
word of one byte is a request whose `op` is bits 2:0 when bits 7:3 are zero, else the CMD byte of a frame row; a longer word
is a frame as it stands on the wire, byte 0 lowest, with zeros up to the length its LEN byte declares. DESIGN CHOICE, log
entry 6. -/
def tableEvent (nbits w : Nat) : Option Event :=
  if nbits ≤ 8 then
    if w < 8 then some (.request { op := BitVec.ofNat 3 w, cmd := 0, data := [], idx := 0 })
    else if w < 256 then some (.frame (BitVec.ofNat 8 w) [])
    else none
  else
    match decodePacket (bytesOfNat (max ((nbits + 7) / 8) (5 + w / 2 ^ 24 % 256)) w) with
    | .ok p => some (.frame p.cmd p.payload)
    | .error _ => none

/-- The instruction the decoder reads from a word of the opcode table. -/
def decodeTableWord (nbits w : Nat) : Option Instr :=
  (tableEvent nbits w).bind decodeEvent

/-- A request with the given `op` and every other field zero or empty. -/
def bareRequest (op : BitVec 3) : Request := { op := op, cmd := 0, data := [], idx := 0 }

/-- The event that carries an instruction (R78, R79 for the op rows; R61 for the frame rows). -/
def encode : Instr → Event
  | .encode cmd payload => .request { bareRequest 0b001#3 with cmd := cmd, data := payload }
  | .decode buf => .request { bareRequest 0b010#3 with data := buf }
  | .feed chunk => .request { bareRequest 0b011#3 with data := chunk }
  | .readStatus idx => .request { bareRequest 0b100#3 with idx := idx }
  | .reservedOp000 => .request (bareRequest 0b000#3)
  | .reservedOp101 => .request (bareRequest 0b101#3)
  | .reservedOp110 => .request (bareRequest 0b110#3)
  | .reservedOp111 => .request (bareRequest 0b111#3)
  | .ping payload => .frame 0x01#8 payload
  | .ledControl payload => .frame 0x02#8 payload
  | .emergencyStop payload => .frame 0xFF#8 payload
  | .reservedCmd cmd payload => .frame cmd payload

/-- The bytes of a frame row on the wire (R61); an op row has none. -/
def encodeFrame : Instr → Option Bytes
  | .encode _ _ => none
  | .decode _ => none
  | .feed _ => none
  | .readStatus _ => none
  | .reservedOp000 => none
  | .reservedOp101 => none
  | .reservedOp110 => none
  | .reservedOp111 => none
  | .ping payload => some (buildFrame 0x01#8 payload)
  | .ledControl payload => some (buildFrame 0x02#8 payload)
  | .emergencyStop payload => some (buildFrame 0xFF#8 payload)
  | .reservedCmd cmd payload => some (buildFrame cmd payload)

end Sys2Proof
end

