-- ==== Sys2Proof/Machine/State.lean ====
section
/-! DEFINITION. The state of the block as plain data, the reasons a step can stop, and the state after reset
(spec/10_state.md R20 to R34, spec/60_exceptions.md R147, R150). -/

namespace Sys2Proof.Machine

/-- Everything the spec gives the block, the traces it asks a model to keep, its build parameters, and the events the
environment has issued. -/
structure State where
  /-- `RB`, the reassembly buffer (R21). -/
  rb : Bytes
  /-- `CHK_ERR` (R22). -/
  chkErr : Word
  /-- `RX_PKT` (R23). -/
  rxPkt : Word
  /-- `TXS`, every byte appended for the transmitter, in order (R26). -/
  txs : Bytes
  /-- `PKTS`, every packet emitted, in order (R26). -/
  pkts : List Packet
  /-- The RX stream: every byte fed, in issue order (spec/20_memory.md R40, R52; log entry 3). -/
  rxs : Bytes
  /-- The result each operation returned, oldest first (R26, spec/30_encoding.md R78; log entry 3). -/
  results : List Response
  /-- The build-time parameters (R31; log entry 1). -/
  par : Params
  /-- The events issued and not yet taken, oldest first (spec/20_memory.md R51; log entry 2). -/
  pending : List Event
deriving DecidableEq, Repr

/-- The block raises no trap and no error is fatal (R146, R150), so nothing stops the machine with a fault. -/
inductive Fault
deriving DecidableEq, Repr

/-- The requests the block gives no meaning to. A refusal ends the run, which is the refusal mark of R147; it is safe, since
no claim about a next state holds through one (log entry 7). -/
inductive Refusal where
  /-- Raised by the dispatcher for an instruction without a meaning; safe. No arm raises it. -/
  | notModelled (mnemonic : String)
  /-- Raised by the four reserved `op` values (R80, R147); safe. -/
  | reservedOp
  /-- Raised by `FEED` on a chunk longer than `CHUNK_MAX` (R147); safe. -/
  | oversizeChunk
  /-- Raised by `DECODE` on an input longer than `DEC_IN_MAX` (R147); safe. -/
  | oversizeDecodeInput
deriving DecidableEq, Repr

/-- The state after reset of a build with the given parameters (R34), nothing having left or reached the block yet
(log entries 2, 3, 4). -/
def State.init (par : Params) : State where
  rb := []
  chkErr := 0
  rxPkt := 0
  txs := []
  pkts := []
  rxs := []
  results := []
  par := par
  pending := []

/-- The machine right after reset (R34, R163). -/
def State.reset : State := State.init Config.built

end Sys2Proof.Machine
end

