-- ==== Sys2Proof/Machine/Flags.lean ====
section
/-! DEFINITION. What the block derives and does not store: the sync state, the status registers and the result codes
(spec/10_state.md R29, R30, spec/42_status.md R131, R132, spec/60_exceptions.md R140). The block has no condition codes (R29). -/

namespace Sys2Proof.Machine

/-- The classification of the buffer (R29). -/
inductive SyncState where
  | idle
  | hunt
  | header
  | body
deriving DecidableEq, Repr

/-- `SYNC_STATE(RB)` (R29). -/
def syncState (rb : Bytes) : SyncState :=
  if rb.length = 0 then .idle
  else if (rb.length = 2 ∨ rb.length = 3) ∧ hasHeader rb = true then .header
  else if 4 ≤ rb.length ∧ hasHeader rb = true then .body
  else .hunt

/-- The numbers of R29. -/
def SyncState.code : SyncState → Word
  | .idle => 0
  | .hunt => 1
  | .header => 2
  | .body => 3

/-- Register 2, `STATUS`: `RB_LEN` in bits 31:16, zeros in 15:2, `SYNC_STATE` in 1:0 (R30, R131). A buffer of 65536 bytes or more,
which no reachable state has (spec/41_reassembler.md R113), does not fit the field (log entry 8). -/
def statusWord (rb : Bytes) : Word :=
  (BitVec.ofNat 32 rb.length <<< 16) ||| (syncState rb).code

/-- The register a 2-bit index names (R30, R131); index 3 is reserved and reads 0 (R132). -/
def statusRegister (s : State) (idx : BitVec 2) : Word :=
  match idx.toNat with
  | 0 => s.chkErr
  | 1 => s.rxPkt
  | 2 => statusWord s.rb
  | _ => 0x00000000#32

/-- The status code a result carries (R140). -/
def Response.code : Response → Nat
  | .encoded (.ok _) => 0
  | .encoded (.error .payloadTooLarge) => 4
  | .decoded (.ok _) => 0
  | .decoded (.error .incomplete) => 1
  | .decoded (.error .badHeader) => 2
  | .decoded (.error .checksumMismatch) => 3
  | .fed _ => 0
  | .status _ => 0

end Sys2Proof.Machine
end

