-- ==== Sys2Proof/Machine/Ops.lean ====
section
/-! DEFINITION. The named operations over the state that the meanings share: the buffer's four primitives and the counters
(spec/20_memory.md R41, spec/00_scope.md R16), the streams (R46, R17), returning a result or an error, refusing, and `RESET`. -/

namespace Sys2Proof.Machine

/-- `sat_inc(c)` (R16, R24). -/
def satInc (c : Word) : Word := if c.toNat < 2 ^ 32 - 1 then c + 1 else c

/-- `append(s)` on RB (R41). -/
def bufAppend (rb s : Bytes) : Bytes := rb ++ s

/-- `drop(n)` on RB (R41). -/
def bufDrop (rb : Bytes) (n : Nat) : Bytes := rb.drop n

/-- `clear` on RB (R41). -/
def bufClear (_rb : Bytes) : Bytes := []

/-- `keep_tail_aa` on RB (R41). -/
def bufKeepTailAA (_rb : Bytes) : Bytes := [0xAA#8]

/-- `no_header_discard()` (spec/41_reassembler.md R107). -/
def noHeaderDiscard (policy : NohdrPolicy) (rb : Bytes) : Bytes :=
  match policy with
  | .discardAll => bufClear rb
  | .keepTailAA => if byteAt rb (rb.length - 1) = 0xAA#8 then bufKeepTailAA rb else bufClear rb

/-- `return v`: the operation ends with a result (R17, R140). Returning `Err(e)` is how this block takes an error: nothing is
saved, no mode changes and no control is transferred (R150), and the next operation runs normally (R146). -/
def State.respond (s : State) (r : Response) : State :=
  { s with results := s.results ++ [r] }

/-- `tx_append(s)`: the bytes enter TXS as one unit (R46). -/
def State.txAppend (s : State) (frame : Bytes) : State :=
  { s with txs := s.txs ++ frame }

/-- A chunk reaches the RX stream (R40, R52). -/
def State.receive (s : State) (chunk : Bytes) : State :=
  { s with rxs := s.rxs ++ chunk }

/-- `refuse`: the request has no meaning and the run is marked (R17, R147). -/
def refuse (r : Refusal) : Host.Outcome State Fault Refusal := .refused r

/-- `ENCODE(cmd, payload)` on the state: the shared operation of `ENCODE` and of the frame rows (R88, R82). -/
def sendFrame (cmd : Byte) (payload : Bytes) (s : State) : State :=
  match encodePacket cmd payload with
  | .ok frame => (s.txAppend frame).respond (.encoded (.ok frame))
  | .error e => s.respond (.encoded (.error e))

/-- `RESET` (R163); the traces, the returned results and the RX stream are records and stay (R26, log entry 3). -/
def State.takeReset (s : State) : State :=
  { s with rb := bufClear s.rb, chkErr := 0, rxPkt := 0 }

end Sys2Proof.Machine
end

