-- ==== Sys2Proof/Machine/Codec.lean ====
section
/-! DEFINITION. The meanings of `ENCODE` and `DECODE` (spec/40_codec.md R87, R88, R89). -/

namespace Sys2Proof.Machine

/-- `ENCODE(cmd, payload)` (R88). -/
def execEncode (cmd : Byte) (payload : Bytes) (s : State) : Host.Outcome State Fault Refusal :=
  .next (sendFrame cmd payload s)

/-- `DECODE(buf)` (R89). -/
def execDecode (buf : Bytes) (s : State) : Host.Outcome State Fault Refusal :=
  if longerThan buf s.par.decInMax = true then refuse .oversizeDecodeInput
  else .next (s.respond (.decoded (decodePacket buf)))

end Sys2Proof.Machine
end

