-- ==== Sys2Proof/Machine/Commands.lean ====
section
/-! DEFINITION. The meanings of the command-frame rows: the frame is encoded and appended to TXS (spec/30_encoding.md R68 to R71, R82;
log entry 5). -/

namespace Sys2Proof.Machine

/-- `PING`: `ENCODE 0x01, payload` (R68, R82). -/
def execPing (payload : Bytes) (s : State) : Host.Outcome State Fault Refusal :=
  .next (sendFrame 0x01#8 payload s)

/-- `LED_CONTROL`: `ENCODE 0x02, payload`, with any payload (R69, R75, R82). -/
def execLedControl (payload : Bytes) (s : State) : Host.Outcome State Fault Refusal :=
  .next (sendFrame 0x02#8 payload s)

/-- `EMERGENCY_STOP`: `ENCODE 0xFF, payload` (R70, R82). -/
def execEmergencyStop (payload : Bytes) (s : State) : Host.Outcome State Fault Refusal :=
  .next (sendFrame 0xFF#8 payload s)

/-- A reserved command is encoded exactly as the named ones are (R71). -/
def execReservedCmd (cmd : Byte) (payload : Bytes) (s : State) : Host.Outcome State Fault Refusal :=
  .next (sendFrame cmd payload s)

end Sys2Proof.Machine
end

