-- ==== Sys2Proof/Machine/Reassembler.lean ====
section
/-! DEFINITION. The meaning of `FEED`: the reassembly loop (spec/41_reassembler.md R105 to R110). -/

namespace Sys2Proof.Machine

/-- What the loop of R105 reads and writes: RB, CHK_ERR, RX_PKT and the list `out` of packets emitted so far. -/
structure Reasm where
  rb : Bytes
  chkErr : Word
  rxPkt : Word
  out : List Packet
deriving DecidableEq, Repr

/-- Step 6 of R105 on a candidate's verdict: emit and consume the frame, or count the failure and drop the two header bytes
(R108, R109). A candidate is never `Incomplete` nor `BadHeader` (spec/40_codec.md R91); for those the loop would stop. DEDUCED,
safe, log entry 9. -/
def Reasm.settle (r : Reasm) (total : Nat) (verdict : Except DecodeError Packet) : Reasm × Bool :=
  match verdict with
  | .ok p => ({ r with rb := bufDrop r.rb total, rxPkt := satInc r.rxPkt, out := r.out ++ [p] }, true)
  | .error .checksumMismatch => ({ r with rb := bufDrop r.rb 2, chkErr := satInc r.chkErr }, true)
  | .error .incomplete => (r, false)
  | .error .badHeader => (r, false)

/-- Steps 4 to 6 of R105, once the buffer starts with a header. -/
def Reasm.candidate (r : Reasm) : Reasm × Bool :=
  if r.rb.length < 4 then (r, false)
  else if r.rb.length < frameTotal r.rb then (r, false)
  else r.settle (frameTotal r.rb) (decodePacket (slice r.rb 0 (frameTotal r.rb)))

/-- One pass of the loop of R105, and whether the loop goes on. -/
def Reasm.pass (policy : NohdrPolicy) (r : Reasm) : Reasm × Bool :=
  if r.rb.length < Config.minFrame then (r, false)
  else
    match findHdr r.rb with
    | none => ({ r with rb := noHeaderDiscard policy r.rb }, false)
    | some k => ({ r with rb := bufDrop r.rb k } : Reasm).candidate

/-- The loop of R105, for at most the given number of passes. -/
def Reasm.loop (policy : NohdrPolicy) : Nat → Reasm → Reasm
  | 0, r => r
  | n + 1, r => if (r.pass policy).2 = true then Reasm.loop policy n (r.pass policy).1 else (r.pass policy).1

/-- The loop of R105 to its end: `floor(n / 2) + 1` passes are enough for `n` bytes (R110). -/
def Reasm.run (policy : NohdrPolicy) (r : Reasm) : Reasm :=
  Reasm.loop policy (r.rb.length / 2 + 1) r

/-- The append of R105 and the loop. -/
def Reasm.feed (policy : NohdrPolicy) (r : Reasm) (chunk : Bytes) : Reasm :=
  ({ r with rb := bufAppend r.rb chunk } : Reasm).run policy

/-- The registers the loop starts from, nothing emitted yet. -/
def State.reasm (s : State) : Reasm :=
  { rb := s.rb, chkErr := s.chkErr, rxPkt := s.rxPkt, out := [] }

/-- The registers the loop leaves; the packets it emitted enter PKTS in order (R17, R108). -/
def State.withReasm (s : State) (r : Reasm) : State :=
  { s with rb := r.rb, chkErr := r.chkErr, rxPkt := r.rxPkt, pkts := s.pkts ++ r.out }

/-- `FEED(chunk)` (R105). -/
def execFeed (chunk : Bytes) (s : State) : Host.Outcome State Fault Refusal :=
  if longerThan chunk s.par.chunkMax = true then refuse .oversizeChunk
  else
    let r := s.reasm.feed s.par.nohdrPolicy chunk
    .next (((s.receive chunk).withReasm r).respond (.fed r.out))

end Sys2Proof.Machine
end

