-- ==== Sys2Proof/Machine/Reserved.lean ====
section
/-! DEFINITION. The meanings of the four reserved `op` values: a refusal (spec/30_encoding.md R80, spec/60_exceptions.md R147). -/

namespace Sys2Proof.Machine

/-- op 000 (R80). -/
def execReservedOp000 (_s : State) : Host.Outcome State Fault Refusal := refuse .reservedOp

/-- op 101 (R80). -/
def execReservedOp101 (_s : State) : Host.Outcome State Fault Refusal := refuse .reservedOp

/-- op 110 (R80). -/
def execReservedOp110 (_s : State) : Host.Outcome State Fault Refusal := refuse .reservedOp

/-- op 111 (R80). -/
def execReservedOp111 (_s : State) : Host.Outcome State Fault Refusal := refuse .reservedOp

end Sys2Proof.Machine
end

