-- ==== Sys2Proof/Machine/Status.lean ====
section
/-! DEFINITION. The meaning of `READ_STATUS` (spec/42_status.md R131). -/

namespace Sys2Proof.Machine

/-- `READ_STATUS(idx)` (R131). -/
def execReadStatus (idx : BitVec 2) (s : State) : Host.Outcome State Fault Refusal :=
  .next (s.respond (.status (statusRegister s idx)))

end Sys2Proof.Machine
end

