-- ==== Sys2Proof/Machine/Dispatch.lean ====
section
/-! DEFINITION. One arm per constructor of Instr, each one call of its meaning. -/

namespace Sys2Proof.Machine

def exec (i : Instr) (s : State) : Host.Outcome State Fault Refusal :=
  match i with
  | .encode cmd payload => Sys2Proof.Machine.execEncode cmd payload s
  | .decode buf => Sys2Proof.Machine.execDecode buf s
  | .feed chunk => Sys2Proof.Machine.execFeed chunk s
  | .readStatus idx => Sys2Proof.Machine.execReadStatus idx s
  | .reservedOp000 => Sys2Proof.Machine.execReservedOp000 s
  | .reservedOp101 => Sys2Proof.Machine.execReservedOp101 s
  | .reservedOp110 => Sys2Proof.Machine.execReservedOp110 s
  | .reservedOp111 => Sys2Proof.Machine.execReservedOp111 s
  | .ping payload => Sys2Proof.Machine.execPing payload s
  | .ledControl payload => Sys2Proof.Machine.execLedControl payload s
  | .emergencyStop payload => Sys2Proof.Machine.execEmergencyStop payload s
  | .reservedCmd cmd payload => Sys2Proof.Machine.execReservedCmd cmd payload s

end Sys2Proof.Machine
end

