-- ==== Sys2Proof/Machine/Step.lean ====
section
/-! DEFINITION. One step: the oldest event is taken whole (spec/00_scope.md R5, spec/20_memory.md R51). -/

namespace Sys2Proof.Machine

/-- One atomic step. With nothing pending the block keeps all its state (spec/60_exceptions.md R157); an event that carries
an instruction runs it; `RESET` sets the block's state (spec/70_reset_and_hazards.md R163, R165). -/
def step (s : State) : Host.Outcome State Fault Refusal :=
  match s.pending with
  | [] => .next s
  | e :: rest =>
    match decodeEvent e with
    | some i => exec i { s with pending := rest }
    | none => .next (State.takeReset { s with pending := rest })

/-- The state in which the word of an opcode-table row is the next event (log entries 2 and 6); a word that stands for no
instruction leaves nothing pending. -/
def State.withFetchWord (s : State) (nbits w : Nat) : State :=
  match tableEvent nbits w with
  | some e => { s with pending := e :: s.pending }
  | none => { s with pending := [] }

end Sys2Proof.Machine
end

