-- ==== Sys2Proof/Machine/SyncFsm.lean ====
section
/-! DEFINITION. The header-sync state machine of spec/41_reassembler.md R122. R105 governs (the machine runs
`Machine/Reassembler.lean`); this is R122's table, for the statement that the two agree. -/

namespace Sys2Proof.Machine

/-- The states of R122. -/
inductive FsmState where
  | append
  | check5
  | search
  | check4
  | checkLen
  | validate
  | done
deriving DecidableEq, Repr

/-- A configuration of the state machine: its state, the registers, the chunk, and R122's `total` and `r`. -/
structure Fsm where
  at_ : FsmState
  regs : Reasm
  chunk : Bytes
  total : Nat
  verdict : Except DecodeError Packet
deriving DecidableEq, Repr

/-- Where a `FEED` starts; `total` and `r` are set before they are read. -/
def Fsm.start (regs : Reasm) (chunk : Bytes) : Fsm :=
  { at_ := .append, regs := regs, chunk := chunk, total := 0, verdict := .error .incomplete }

/-- One row of R122's table. -/
def Fsm.next (policy : NohdrPolicy) (f : Fsm) : Fsm :=
  match f.at_ with
  | .append => { f with at_ := .check5, regs := { f.regs with rb := bufAppend f.regs.rb f.chunk } }
  | .check5 => if f.regs.rb.length < 5 then { f with at_ := .done } else { f with at_ := .search }
  | .search =>
    match findHdr f.regs.rb with
    | none => { f with at_ := .done, regs := { f.regs with rb := noHeaderDiscard policy f.regs.rb } }
    | some k => { f with at_ := .check4, regs := { f.regs with rb := bufDrop f.regs.rb k } }
  | .check4 =>
    if f.regs.rb.length < 4 then { f with at_ := .done }
    else { f with at_ := .checkLen, total := 5 + lenField f.regs.rb }
  | .checkLen =>
    if f.regs.rb.length < f.total then { f with at_ := .done }
    else { f with at_ := .validate, verdict := decodePacket (slice f.regs.rb 0 f.total) }
  | .validate =>
    match f.verdict with
    | .ok p =>
      { f with at_ := .check5
               regs := { f.regs with rb := bufDrop f.regs.rb f.total, rxPkt := satInc f.regs.rxPkt, out := f.regs.out ++ [p] } }
    | .error .checksumMismatch =>
      { f with at_ := .check5, regs := { f.regs with rb := bufDrop f.regs.rb 2, chkErr := satInc f.regs.chkErr } }
    | .error .incomplete => { f with at_ := .done }
    | .error .badHeader => { f with at_ := .done }
  | .done => f

/-- So many rows of the table, one after another. -/
def Fsm.iterate (policy : NohdrPolicy) : Nat → Fsm → Fsm
  | 0, f => f
  | n + 1, f => Fsm.iterate policy n (f.next policy)

end Sys2Proof.Machine
end

