-- ==== Sys2Proof/Safety.lean ====
section
/-! DEFINITION. What counts as a safe state and run, in the terms the statements use: the effects of the operations written out
from the rules a second time, the pseudocode of `FEED` as a relation, where each byte of the RX stream went, and the
invariant of the machine. -/

namespace Sys2Proof.Safety

open Sys2Proof.Machine

/-- The effect of `ENCODE(cmd, payload)` as R88 writes it. -/
def encodeEffect (cmd : Byte) (payload : Bytes) (s : State) : State :=
  if 255 < payload.length then
    { s with results := s.results ++ [.encoded (.error .payloadTooLarge)] }
  else
    let body : Bytes := 0xAA#8 :: 0x55#8 :: cmd :: BitVec.ofNat 8 payload.length :: payload
    let frame : Bytes := body ++ [body.foldl (· ^^^ ·) 0#8]
    { s with txs := s.txs ++ frame, results := s.results ++ [.encoded (.ok frame)] }

/-- The result of `DECODE(buf)` as R89 writes it, for an input within `DEC_IN_MAX`. -/
def decodeResult (buf : Bytes) : Except DecodeError Packet :=
  let len := (buf.getD 3 0#8).toNat
  if buf.length < 5 then .error .incomplete
  else if buf.getD 0 0#8 ≠ 0xAA#8 ∨ buf.getD 1 0#8 ≠ 0x55#8 then .error .badHeader
  else if buf.length < 4 + len + 1 then .error .incomplete
  else if buf.getD (4 + len) 0#8 ≠ (buf.take (4 + len)).foldl (· ^^^ ·) 0#8 then .error .checksumMismatch
  else .ok { cmd := buf.getD 2 0#8, payload := (buf.drop 4).take len }

/-- The bytes `AA 55` stand at index `k` (R106). -/
def HeaderAt (s : Bytes) (k : Nat) : Prop := s[k]? = some 0xAA#8 ∧ s[k + 1]? = some 0x55#8

/-- `k` is the least index at which a header stands (R106). -/
def FirstHeader (s : Bytes) (k : Nat) : Prop := HeaderAt s k ∧ ∀ j, j < k → ¬ HeaderAt s j

/-- No header stands anywhere in `s` (R106). -/
def NoHeader (s : Bytes) : Prop := ∀ j, ¬ HeaderAt s j

/-- `SYNC_STATE(RB)` as R29 writes it. -/
def syncCode (rb : Bytes) : Nat :=
  if rb.length = 0 then 0
  else if (rb.length = 2 ∨ rb.length = 3) ∧ rb[0]? = some 0xAA#8 ∧ rb[1]? = some 0x55#8 then 2
  else if 4 ≤ rb.length ∧ rb[0]? = some 0xAA#8 ∧ rb[1]? = some 0x55#8 then 3
  else 1

/-- What the no-header discard leaves of a buffer (R107). -/
def keptTail (policy : NohdrPolicy) (rb : Bytes) : Bytes :=
  if policy = .keepTailAA ∧ rb.getLast? = some 0xAA#8 then [0xAA#8] else []

/-- The loop of R105 as a relation: so many passes take the registers `r` to `r'`. -/
inductive FeedRun (policy : NohdrPolicy) : Nat → Reasm → Reasm → Prop where
  /-- Step 1: fewer than 5 bytes. -/
  | few (r : Reasm) : r.rb.length < 5 → FeedRun policy 1 r r
  /-- Step 2: no header in the buffer. -/
  | noHeader (r : Reasm) : 5 ≤ r.rb.length → NoHeader r.rb →
      FeedRun policy 1 r { r with rb := keptTail policy r.rb }
  /-- Step 4: the LEN byte is not buffered yet. -/
  | noLen (r : Reasm) (k : Nat) : 5 ≤ r.rb.length → FirstHeader r.rb k → r.rb.length - k < 4 →
      FeedRun policy 1 r { r with rb := r.rb.drop k }
  /-- Step 5: the frame is not complete yet. -/
  | partialFrame (r : Reasm) (k : Nat) (len : Byte) : 5 ≤ r.rb.length → FirstHeader r.rb k →
      r.rb[k + 3]? = some len → r.rb.length - k < 5 + len.toNat →
      FeedRun policy 1 r { r with rb := r.rb.drop k }
  /-- Step 6, success: emit the packet, consume the frame, go on. -/
  | emits (n : Nat) (r r' : Reasm) (k : Nat) (len : Byte) (p : Packet) : 5 ≤ r.rb.length → FirstHeader r.rb k →
      r.rb[k + 3]? = some len → 5 + len.toNat ≤ r.rb.length - k →
      decodeResult ((r.rb.drop k).take (5 + len.toNat)) = .ok p →
      FeedRun policy n
        { r with rb := r.rb.drop (k + (5 + len.toNat)), rxPkt := satInc r.rxPkt, out := r.out ++ [p] } r' →
      FeedRun policy (n + 1) r r'
  /-- Step 6, checksum failure: count it, drop the two header bytes, go on. -/
  | fails (n : Nat) (r r' : Reasm) (k : Nat) (len : Byte) : 5 ≤ r.rb.length → FirstHeader r.rb k →
      r.rb[k + 3]? = some len → 5 + len.toNat ≤ r.rb.length - k →
      decodeResult ((r.rb.drop k).take (5 + len.toNat)) = .error .checksumMismatch →
      FeedRun policy n { r with rb := r.rb.drop (k + 2), chkErr := satInc r.chkErr } r' →
      FeedRun policy (n + 1) r r'

/-- The state a `FEED(chunk)` leaves when its loop ends in the registers `r`: what R105 writes, and nothing else. -/
def feedEffect (chunk : Bytes) (r : Reasm) (s : State) : State :=
  { s with
    rb := r.rb
    chkErr := r.chkErr
    rxPkt := r.rxPkt
    pkts := s.pkts ++ r.out
    rxs := s.rxs ++ chunk
    results := s.results ++ [.fed r.out] }

/-- Chunks fed one after another, up to the first refusal. -/
def feedAll : List Bytes → State → Host.Outcome State Fault Refusal
  | [], s => .next s
  | c :: cs, s =>
    match exec (.feed c) s with
    | .next t => feedAll cs t
    | .fault f => .fault f
    | .refused r => .refused r

/-- Where a stretch of the RX stream went (R116). -/
inductive Segment where
  /-- An emitted frame. -/
  | frame (p : Packet)
  /-- The two header bytes of a candidate that failed its checksum. -/
  | failedHeader
  /-- Bytes discarded otherwise: before a header, for want of a header, or by `RESET`. -/
  | junk (bytes : Bytes)
deriving DecidableEq, Repr

/-- The bytes of a stretch. -/
def Segment.bytes : Segment → Bytes
  | .frame p => buildFrame p.cmd p.payload
  | .failedHeader => [0xAA#8, 0x55#8]
  | .junk bytes => bytes

/-- The packet a stretch was emitted as. -/
def Segment.packet : Segment → Option Packet
  | .frame p => some p
  | .failedHeader => none
  | .junk _ => none

/-- An emitted frame's payload fits its LEN byte (R61). -/
def Segment.fits : Segment → Bool
  | .frame p => p.payload.length ≤ 255
  | .failedHeader => true
  | .junk _ => true

/-- A stream is split into stretches and a rest, the packets being those of its frames, in order (R115, R116). -/
def Accounts (stream rest : Bytes) (packets : List Packet) (segments : List Segment) : Prop :=
  stream = segments.flatMap Segment.bytes ++ rest ∧
    packets = segments.filterMap Segment.packet ∧
    ∀ g ∈ segments, g.fits = true

/-- The candidate frame that starts a byte sequence: as many bytes as its LEN byte declares (steps 5 and 6 of R105). -/
def candidateFrame (tail : Bytes) : Bytes := tail.take (5 + (tail.getD 3 0#8).toNat)

/-- What the rules say of a stretch at the front of the bytes a `FEED` still holds: an emitted frame is a candidate that `DECODE`
accepts as that packet, a failed header starts a candidate that fails its checksum, and no header starts inside discarded bytes
(R105, R109, R116). -/
def Segment.judged (tail : Bytes) : Segment → Prop
  | .frame p => decodeResult (candidateFrame tail) = .ok p
  | .failedHeader => decodeResult (candidateFrame tail) = .error .checksumMismatch
  | .junk bytes => ∀ j, j < bytes.length → ¬ HeaderAt tail j

/-- Every stretch is what the rules say it is, each read where it stands: in front of the stretches after it and the rest. -/
def Judged (rest : Bytes) : List Segment → Prop
  | [] => True
  | g :: gs => g.judged ((g :: gs).flatMap Segment.bytes ++ rest) ∧ Judged rest gs

/-- `Inv(RB)` (R112). -/
def BufInv (rb : Bytes) : Prop :=
  rb.length ≤ 4 ∨
    (rb[0]? = some 0xAA#8 ∧ rb[1]? = some 0x55#8 ∧ ∃ len, rb[3]? = some len ∧ rb.length < 5 + len.toNat)

/-- The frame an `ENCODE` returned, if it returned one. -/
def returnedFrame : Response → Bytes
  | .encoded (.ok f) => f
  | .encoded (.error _) => []
  | .decoded _ => []
  | .fed _ => []
  | .status _ => []

/-- The packets a `FEED` returned. -/
def returnedPackets : Response → List Packet
  | .fed ps => ps
  | .encoded _ => []
  | .decoded _ => []
  | .status _ => []

/-- Every frame ever returned is the frame of some command and payload (R61, R63). -/
def FramesBuilt (results : List Response) : Prop :=
  ∀ f, .encoded (.ok f) ∈ results → ∃ cmd payload, payload.length ≤ 255 ∧ f = buildFrame cmd payload

/-- The invariant of the machine. -/
structure Inv (s : State) : Prop where
  /-- The parameters are within the spec's bounds (R8, R12). -/
  legal : s.par.Legal
  /-- R112. -/
  buffer : BufInv s.rb
  /-- TXS is the frames `ENCODE` returned, whole and in order (R46, R53). -/
  txs : s.txs = s.results.flatMap returnedFrame
  /-- PKTS is the packets `FEED` returned, in order (R26, R108). -/
  pkts : s.pkts = s.results.flatMap returnedPackets
  /-- R61, R63. -/
  built : FramesBuilt s.results
  /-- Every byte ever fed went into one emitted frame, was discarded, or is in RB (R115, R116). -/
  stream : ∃ segments, Accounts s.rxs s.rb s.pkts segments

end Sys2Proof.Safety
end

