-- ==== Sys2Proof/WellFormed.lean ====
section
/-! DEFINITION. Which instructions a build's ports can carry: the operand limits of spec/30_encoding.md R61, R71 and R78. -/

namespace Sys2Proof

/-- A CMD value of the `RESERVED_CMD` row: every value but the three named ones (R71). -/
def reservedCmdValue (cmd : Byte) : Bool :=
  cmd != 0x01#8 && cmd != 0x02#8 && cmd != 0xFF#8

/-- The operand limits: a `DECODE` input of at most `DEC_IN_MAX` bytes and a `FEED` chunk of at most `CHUNK_MAX` (R78), a
frame's payload of at most 255 bytes (R61), a reserved command that is none of the named ones (R71). The payload of
`ENCODE` may have any length (R78). -/
def Instr.wellFormed (p : Params) : Instr → Bool
  | .encode _ _ => true
  | .decode buf => buf.length ≤ p.decInMax
  | .feed chunk => chunk.length ≤ p.chunkMax
  | .readStatus _ => true
  | .reservedOp000 => true
  | .reservedOp101 => true
  | .reservedOp110 => true
  | .reservedOp111 => true
  | .ping payload => payload.length ≤ Config.maxPayload
  | .ledControl payload => payload.length ≤ Config.maxPayload
  | .emergencyStop payload => payload.length ≤ Config.maxPayload
  | .reservedCmd cmd payload => reservedCmdValue cmd && payload.length ≤ Config.maxPayload

end Sys2Proof
end

