-- ==== Sys2Proof/Certificates/Slice0/Obligations.lean ====
section
/-! DEFINITION. The statements for the provers, each from the numbered rules of spec/. The effects and relations they are
written with stand in Sys2Proof/Safety.lean. -/

open Sys2Proof Sys2Proof.Machine Sys2Proof.Safety

/-! ### The codec -/

/-- R88: `op` 001 selects `ENCODE`, which appends the whole frame and returns it, or returns `PayloadTooLarge` and appends nothing;
nothing else changes. -/
def Obligations.EncodeBuildsAndAppendsFrame : Prop :=
  (∀ r : Request, r.op = 0b001#3 → decodeRequest r = .encode r.cmd r.data) ∧
  ∀ (cmd : Byte) (payload : Bytes) (s : State),
    exec (.encode cmd payload) s = .next (encodeEffect cmd payload s)

/-- R89: `op` 010 selects `DECODE`, which refuses an oversize input and otherwise returns what the first failing check, or the
packet, decides; nothing else changes. -/
def Obligations.DecodeChecksInOrder : Prop :=
  (∀ r : Request, r.op = 0b010#3 → decodeRequest r = .decode r.data) ∧
  ∀ (buf : Bytes) (s : State),
    (s.par.decInMax < buf.length → exec (.decode buf) s = .refused .oversizeDecodeInput) ∧
    (buf.length ≤ s.par.decInMax →
      exec (.decode buf) s = .next { s with results := s.results ++ [.decoded (decodeResult buf)] })

/-- R87: `ENCODE` writes only TXS (and the list of results), `DECODE` only the list of results, and both answer the same whatever
the state. -/
def Obligations.CodecKeepsNoState : Prop :=
  (∀ (cmd : Byte) (payload : Bytes) (s t : State), exec (.encode cmd payload) s = .next t →
    t.rb = s.rb ∧ t.chkErr = s.chkErr ∧ t.rxPkt = s.rxPkt ∧ t.pkts = s.pkts ∧ t.rxs = s.rxs ∧
      t.par = s.par ∧ t.pending = s.pending) ∧
  (∀ (buf : Bytes) (s t : State), exec (.decode buf) s = .next t →
    t.rb = s.rb ∧ t.chkErr = s.chkErr ∧ t.rxPkt = s.rxPkt ∧ t.txs = s.txs ∧ t.pkts = s.pkts ∧ t.rxs = s.rxs ∧
      t.par = s.par ∧ t.pending = s.pending) ∧
  (∀ (i : Instr) (s s' t t' : State), ((∃ cmd payload, i = .encode cmd payload) ∨ ∃ buf, i = .decode buf) →
    exec i s = .next t → exec i s' = .next t' →
    ∃ r, t.results = s.results ++ [r] ∧ t'.results = s'.results ++ [r])

/-- R61, R62, R63: the frame `ENCODE` appends, byte by byte, its length, and the two well-formedness equations. -/
def Obligations.EncodedFrameLayout : Prop :=
  ∀ (cmd : Byte) (payload : Bytes) (s : State), payload.length ≤ 255 →
    ∃ frame t, exec (.encode cmd payload) s = .next t ∧ t.txs = s.txs ++ frame ∧
      frame.length = 5 + payload.length ∧ 5 ≤ frame.length ∧ frame.length ≤ 260 ∧
      frame[0]? = some 0xAA#8 ∧ frame[1]? = some 0x55#8 ∧ frame[2]? = some cmd ∧
      (∃ len, frame[3]? = some len ∧ len.toNat = payload.length) ∧
      (∀ j, j < payload.length → frame[4 + j]? = payload[j]?) ∧
      frame[4 + payload.length]? = some (xorFold (frame.take (4 + payload.length)))

/-- R86: the checksum byte of a frame. -/
def Obligations.ChecksumOfFrame : Prop :=
  ∀ (cmd : Byte) (payload : Bytes) (s : State), payload.length ≤ 255 →
    ∃ frame t, exec (.encode cmd payload) s = .next t ∧ t.results = s.results ++ [.encoded (.ok frame)] ∧
      frame.getLast? = some (0xFF#8 ^^^ cmd ^^^ BitVec.ofNat 8 payload.length ^^^ payload.foldl (· ^^^ ·) 0#8)

/-- R90: decoding an encoded packet gives it back, in whatever state either operation runs. -/
def Obligations.CodecRoundTrip : Prop :=
  ∀ (cmd : Byte) (payload : Bytes) (s u : State), payload.length ≤ 255 → u.par.Legal →
    ∃ frame t v, exec (.encode cmd payload) s = .next t ∧ t.results = s.results ++ [.encoded (.ok frame)] ∧
      frame.length = 5 + payload.length ∧ frame.length ≤ u.par.decInMax ∧
      exec (.decode frame) u = .next v ∧
      v.results = u.results ++ [.decoded (.ok { cmd := cmd, payload := payload })]

/-- R91: a candidate frame decodes to a packet or to `ChecksumMismatch`. -/
def Obligations.CandidateNeverIncompleteOrBadHeader : Prop :=
  ∀ (stream : Bytes) (len : Byte) (s : State), s.par.Legal → HeaderAt stream 0 → stream[3]? = some len →
    5 + len.toNat ≤ stream.length →
    ∃ r t, exec (.decode (stream.take (5 + len.toNat))) s = .next t ∧ t.results = s.results ++ [.decoded r] ∧
      ((∃ p, r = .ok p) ∨ r = .error .checksumMismatch)

/-- R92: what `DECODE` answers on a frame with one bit flipped, by the offset of the flipped bit; where CMD, the payload or CHK is hit,
the computed and the received checksum differ in exactly that bit. -/
def Obligations.SingleBitErrorOutcome : Prop :=
  ∀ (cmd : Byte) (payload : Bytes) (i b : Nat) (s : State), payload.length ≤ 255 → s.par.Legal →
    i < 5 + payload.length → b < 8 →
    ∃ frame damaged r t, frame = buildFrame cmd payload ∧
      damaged = frame.set i (frame.getD i 0#8 ^^^ (1#8 <<< b)) ∧
      exec (.decode damaged) s = .next t ∧ t.results = s.results ++ [.decoded r] ∧
      (i < 2 → r = .error .badHeader) ∧
      (i = 2 ∨ 4 ≤ i → r = .error .checksumMismatch ∧
        xorFold (damaged.take (4 + payload.length)) ^^^ damaged.getD (4 + payload.length) 0#8 = 1#8 <<< b) ∧
      (i = 3 → payload.length < (damaged.getD 3 0#8).toNat → r = .error .incomplete) ∧
      (i = 3 → (damaged.getD 3 0#8).toNat < payload.length →
        (frame.getD (4 + (damaged.getD 3 0#8).toNat) 0#8 = xorFold (damaged.take (4 + (damaged.getD 3 0#8).toNat)) →
          r = .ok { cmd := cmd, payload := (frame.drop 4).take (damaged.getD 3 0#8).toNat }) ∧
        (frame.getD (4 + (damaged.getD 3 0#8).toNat) 0#8 ≠ xorFold (damaged.take (4 + (damaged.getD 3 0#8).toNat)) →
          r = .error .checksumMismatch))

/-- R93: a damaged frame whose header and LEN are intact is accepted exactly when the error pattern XORs to zero, and then as the
packet of the damaged bytes, uncorrected. -/
def Obligations.UndetectedErrorsAreZeroSums : Prop :=
  ∀ (cmd : Byte) (payload damaged : Bytes) (s : State), payload.length ≤ 255 → s.par.Legal →
    damaged.length = 5 + payload.length → damaged[0]? = some 0xAA#8 → damaged[1]? = some 0x55#8 →
    damaged[3]? = some (BitVec.ofNat 8 payload.length) →
    ∃ r t, exec (.decode damaged) s = .next t ∧ t.results = s.results ++ [.decoded r] ∧
      ((∃ p, r = .ok p) ↔
        xorFold ((List.zipWith (· ^^^ ·) (buildFrame cmd payload) damaged).drop 2) = 0#8) ∧
      (∀ p, r = .ok p → p = { cmd := damaged.getD 2 0#8, payload := (damaged.drop 4).take payload.length })

/-! ### Command frames and decoding -/

/-- R68 to R71, R82: a command-frame row runs as `ENCODE` with its command byte, for every payload, reserved commands like the
named ones. That a frame row as an instruction is the pseudo-operation is the model's reading (log entry 5). -/
def Obligations.CommandRowsRunAsEncode : Prop :=
  ∀ (payload : Bytes) (s : State),
    exec (.ping payload) s = .next (encodeEffect 0x01#8 payload s) ∧
    exec (.ledControl payload) s = .next (encodeEffect 0x02#8 payload s) ∧
    exec (.emergencyStop payload) s = .next (encodeEffect 0xFF#8 payload s) ∧
    ∀ cmd, exec (.reservedCmd cmd payload) s = .next (encodeEffect cmd payload s)

/-- R68, R69, R70, R82: the frames of `PING`, `LED_ON`, `LED_OFF` and `ESTOP`, appended to TXS and returned. -/
def Obligations.PseudoOperationFrames : Prop :=
  ∀ s : State,
    exec (.ping []) s = .next { s with
      txs := s.txs ++ [0xAA, 0x55, 0x01, 0x00, 0xFE]
      results := s.results ++ [.encoded (.ok [0xAA, 0x55, 0x01, 0x00, 0xFE])] } ∧
    exec (.ledControl [0xFF]) s = .next { s with
      txs := s.txs ++ [0xAA, 0x55, 0x02, 0x01, 0xFF, 0x03]
      results := s.results ++ [.encoded (.ok [0xAA, 0x55, 0x02, 0x01, 0xFF, 0x03])] } ∧
    exec (.ledControl [0x00]) s = .next { s with
      txs := s.txs ++ [0xAA, 0x55, 0x02, 0x01, 0x00, 0xFC]
      results := s.results ++ [.encoded (.ok [0xAA, 0x55, 0x02, 0x01, 0x00, 0xFC])] } ∧
    exec (.emergencyStop []) s = .next { s with
      txs := s.txs ++ [0xAA, 0x55, 0xFF, 0x00, 0x00]
      results := s.results ++ [.encoded (.ok [0xAA, 0x55, 0xFF, 0x00, 0x00])] }

/-- R72: the classification is exhaustive over the command byte. -/
def Obligations.ClassifyNamesTheCommands : Prop :=
  ∀ cmd : Byte,
    (classify cmd = .ping ↔ cmd = 0x01#8) ∧
    (classify cmd = .ledControl ↔ cmd = 0x02#8) ∧
    (classify cmd = .emergencyStop ↔ cmd = 0xFF#8) ∧
    (classify cmd = .unrecognized cmd ↔ cmd ≠ 0x01#8 ∧ cmd ≠ 0x02#8 ∧ cmd ≠ 0xFF#8)

/-- R79, R78: the `op` field alone selects the operation, fields it does not use are ignored, and no request is a `RESET`. -/
def Obligations.OpFieldSelectsOperation : Prop :=
  ∀ (cmd : Byte) (data : Bytes) (idx : BitVec 2),
    decodeEvent (.request ⟨0b000#3, cmd, data, idx⟩) = some .reservedOp000 ∧
    decodeEvent (.request ⟨0b001#3, cmd, data, idx⟩) = some (.encode cmd data) ∧
    decodeEvent (.request ⟨0b010#3, cmd, data, idx⟩) = some (.decode data) ∧
    decodeEvent (.request ⟨0b011#3, cmd, data, idx⟩) = some (.feed data) ∧
    decodeEvent (.request ⟨0b100#3, cmd, data, idx⟩) = some (.readStatus idx) ∧
    decodeEvent (.request ⟨0b101#3, cmd, data, idx⟩) = some .reservedOp101 ∧
    decodeEvent (.request ⟨0b110#3, cmd, data, idx⟩) = some .reservedOp110 ∧
    decodeEvent (.request ⟨0b111#3, cmd, data, idx⟩) = some .reservedOp111 ∧
    decodeEvent .reset = none

/-- R61, R68 to R71: a few frames written out byte by byte from the layout decode to the rows they stand for. -/
def Obligations.WrittenFramesDecode : Prop :=
  decodeFrame [0xAA, 0x55, 0x01, 0x00, 0xFE] = .ok (.ping [], []) ∧
  decodeFrame [0xAA, 0x55, 0x02, 0x01, 0xFF, 0x03, 0x77] = .ok (.ledControl [0xFF], [0x77]) ∧
  decodeFrame [0xAA, 0x55, 0xFF, 0x00, 0x00] = .ok (.emergencyStop [], []) ∧
  decodeFrame [0xAA, 0x55, 0x10, 0x03, 0x01, 0x02, 0x03, 0xEC] = .ok (.reservedCmd 0x10 [0x01, 0x02, 0x03], []) ∧
  decodeFrame [0xAA, 0x55, 0x02, 0x01, 0xFF, 0xA3] = .error .checksumMismatch

/-- The encoder and the decoders agree: on the event of every well-formed instruction, and, for every well-formed frame row, on
its bytes at the front of any byte sequence (R61, R76, R78, R79). -/
def Obligations.DecodeOfEncodeIsIdentity : Prop :=
  (∀ (p : Params) (i : Instr), i.wellFormed p = true → decodeEvent (encode i) = some i) ∧
  (∀ (p : Params) (i : Instr) (frame rest : Bytes), i.wellFormed p = true → encodeFrame i = some frame →
    decodeFrame (frame ++ rest) = .ok (i, rest))

/-- No two byte sequences decode to one frame row in two ways: what decodes is the row's frame followed by the rest (R61, R76, R77). -/
def Obligations.DecodedFrameIsTheEncodedOne : Prop :=
  ∀ (bs rest : Bytes) (i : Instr), decodeFrame bs = .ok (i, rest) →
    ∃ frame, encodeFrame i = some frame ∧ bs = frame ++ rest ∧ ∀ p : Params, i.wellFormed p = true

/-! ### Steps, refusals, reset -/

/-- The oldest event is taken whole and runs the instruction it carries; the instruction sees the events after it still
pending. The queue is the model's form of R51's total order (log entry 2). -/
def Obligations.StepRunsDecodedInstruction : Prop :=
  ∀ (s : State) (e : Event) (rest : List Event) (i : Instr), s.pending = e :: rest → decodeEvent e = some i →
    step s = exec i { s with pending := rest }

/-- R163, R31: `RESET` empties RB and zeroes both counters; TXS, PKTS and the parameters are not changed. That the RX stream and
the list of results are not changed either, and that the event is taken from a queue, are the model's choices (log entries 3
and 2). -/
def Obligations.ResetClearsBufferAndCounters : Prop :=
  ∀ (s : State) (rest : List Event), s.pending = .reset :: rest →
    step s = .next { s with pending := rest, rb := [], chkErr := 0, rxPkt := 0 }

/-- R157: with nothing to do the block keeps all its state. -/
def Obligations.IdleKeepsAllState : Prop :=
  ∀ s : State, s.pending = [] → step s = .next s

/-- R80: a request with a reserved `op` value is refused. -/
def Obligations.ReservedOpIsRefused : Prop :=
  (∀ (s : State) (r : Request) (rest : List Event), s.pending = .request r :: rest →
    (r.op = 0b000#3 ∨ r.op = 0b101#3 ∨ r.op = 0b110#3 ∨ r.op = 0b111#3) → step s = .refused .reservedOp) ∧
  (∀ s : State, exec .reservedOp000 s = .refused .reservedOp ∧ exec .reservedOp101 s = .refused .reservedOp ∧
    exec .reservedOp110 s = .refused .reservedOp ∧ exec .reservedOp111 s = .refused .reservedOp)

/-- R147: the three cases of a refusal, and no other. -/
def Obligations.RefusedExactlyInThreeCases : Prop :=
  ∀ (i : Instr) (s : State) (ρ : Refusal), exec i s = .refused ρ ↔
    (ρ = .reservedOp ∧ (i = .reservedOp000 ∨ i = .reservedOp101 ∨ i = .reservedOp110 ∨ i = .reservedOp111)) ∨
    (ρ = .oversizeChunk ∧ ∃ chunk, i = .feed chunk ∧ s.par.chunkMax < chunk.length) ∨
    (ρ = .oversizeDecodeInput ∧ ∃ buf, i = .decode buf ∧ s.par.decInMax < buf.length)

/-- R146, R150, R78: every well-formed instruction but the reserved `op` values completes, in every state, with exactly one result,
and leaves the parameters and the other pending events alone. -/
def Obligations.WellFormedInstructionsComplete : Prop :=
  ∀ (i : Instr) (s : State), i.wellFormed s.par = true →
    i ≠ .reservedOp000 → i ≠ .reservedOp101 → i ≠ .reservedOp110 → i ≠ .reservedOp111 →
    ∃ t r, exec i s = .next t ∧ t.results = s.results ++ [r] ∧ t.par = s.par ∧ t.pending = s.pending

/-- R34, R164: the state after reset. -/
def Obligations.ResetStateValues : Prop :=
  State.reset.rb = [] ∧ State.reset.chkErr = 0 ∧ State.reset.rxPkt = 0 ∧ syncCode State.reset.rb = 0 ∧
  ∀ idx : BitVec 2, ∃ t, exec (.readStatus idx) State.reset = .next t ∧
    t.results = State.reset.results ++ [.status 0x00000000#32]

/-- R31, R8 to R12: no step changes a build-time parameter. -/
def Obligations.StepKeepsParameters : Prop :=
  ∀ s t : State, step s = .next t → t.par = s.par

/-- R26: the traces are append-only, `RESET` included; the RX stream and the list of results, which are the model's own records
(log entry 3), are too. -/
def Obligations.TracesOnlyGrow : Prop :=
  ∀ s t : State, step s = .next t →
    s.txs <+: t.txs ∧ s.pkts <+: t.pkts ∧ s.rxs <+: t.rxs ∧ s.results <+: t.results

/-- R25: no step but a `RESET` lowers a counter, and none but a `FEED` or a `RESET` changes one (R20, R22, R23). -/
def Obligations.OnlyResetLowersCounters : Prop :=
  ∀ s t : State, step s = .next t →
    (s.pending.head? ≠ some .reset → s.chkErr.toNat ≤ t.chkErr.toNat ∧ s.rxPkt.toNat ≤ t.rxPkt.toNat) ∧
    (s.pending.head? ≠ some .reset → (∀ r, s.pending.head? = some (.request r) → r.op ≠ 0b011#3) →
      t.chkErr = s.chkErr ∧ t.rxPkt = s.rxPkt ∧ t.rb = s.rb)

/-- R140: the status code of the result every operation appends. -/
def Obligations.ResultCodes : Prop :=
  (∀ (cmd : Byte) (payload : Bytes) (s : State), ∃ t r, exec (.encode cmd payload) s = .next t ∧
    t.results = s.results ++ [r] ∧ r.code = if 255 < payload.length then 4 else 0) ∧
  (∀ (buf : Bytes) (s : State), buf.length ≤ s.par.decInMax → ∃ t r, exec (.decode buf) s = .next t ∧
    t.results = s.results ++ [r] ∧
    ((buf.length < 5 ∨ (HeaderAt buf 0 ∧ buf.length < 5 + (buf.getD 3 0#8).toNat)) → r.code = 1) ∧
    (5 ≤ buf.length ∧ ¬ HeaderAt buf 0 → r.code = 2) ∧
    (HeaderAt buf 0 ∧ 5 + (buf.getD 3 0#8).toNat ≤ buf.length →
      (buf.getD (4 + (buf.getD 3 0#8).toNat) 0#8 ≠ xorFold (buf.take (4 + (buf.getD 3 0#8).toNat)) → r.code = 3) ∧
      (buf.getD (4 + (buf.getD 3 0#8).toNat) 0#8 = xorFold (buf.take (4 + (buf.getD 3 0#8).toNat)) → r.code = 0))) ∧
  (∀ (chunk : Bytes) (s : State), chunk.length ≤ s.par.chunkMax → ∃ t r, exec (.feed chunk) s = .next t ∧
    t.results = s.results ++ [r] ∧ r.code = 0) ∧
  (∀ (idx : BitVec 2) (s : State), ∃ t r, exec (.readStatus idx) s = .next t ∧
    t.results = s.results ++ [r] ∧ r.code = 0)

/-! ### Status registers -/

/-- R131: `op` 100 selects `READ_STATUS`, which returns the register its index names and changes nothing. -/
def Obligations.ReadStatusReturnsRegister : Prop :=
  (∀ r : Request, r.op = 0b100#3 → decodeRequest r = .readStatus r.idx) ∧
  ∀ s : State,
    exec (.readStatus 0) s = .next { s with results := s.results ++ [.status s.chkErr] } ∧
    exec (.readStatus 1) s = .next { s with results := s.results ++ [.status s.rxPkt] } ∧
    exec (.readStatus 2) s = .next { s with
      results := s.results ++ [.status ((BitVec.ofNat 32 s.rb.length <<< 16) ||| BitVec.ofNat 32 (syncCode s.rb))] } ∧
    exec (.readStatus 3) s = .next { s with results := s.results ++ [.status 0x00000000#32] }

/-- R30: the fields of STATUS read back from the returned word: SYNC_STATE in 1:0, zeros in 15:2, RB_LEN in 31:16, for every buffer the
16-bit field can hold. -/
def Obligations.StatusWordFields : Prop :=
  ∀ s : State, s.rb.length < 65536 →
    ∃ t v, exec (.readStatus 2) s = .next t ∧ t.results = s.results ++ [.status v] ∧
      (v.extractLsb 1 0).toNat = syncCode s.rb ∧ v.extractLsb 15 2 = 0#14 ∧
      (v.extractLsb 31 16).toNat = s.rb.length

/-- R29: under R112's invariant, HUNT holds at most 4 bytes and BODY an incomplete frame. -/
def Obligations.SyncStateMeanings : Prop :=
  ∀ s : State, BufInv s.rb →
    (syncState s.rb = .idle ↔ s.rb = []) ∧
    (syncState s.rb = .hunt → s.rb.length ≤ 4 ∧ ¬ HeaderAt s.rb 0) ∧
    (syncState s.rb = .header → HeaderAt s.rb 0 ∧ s.rb[3]? = none) ∧
    (syncState s.rb = .body → HeaderAt s.rb 0 ∧ ∃ len, s.rb[3]? = some len ∧ s.rb.length < 5 + len.toNat)

/-- R48, R49: reading twice returns the same value, and a read changes nothing but the list of results. -/
def Obligations.ReadStatusIsIdempotent : Prop :=
  ∀ (idx : BitVec 2) (s : State), ∃ v t u,
    exec (.readStatus idx) s = .next t ∧ exec (.readStatus idx) t = .next u ∧
    t = { s with results := s.results ++ [.status v] } ∧
    u = { s with results := s.results ++ [.status v, .status v] }

/-! ### The reassembler -/

/-- R105: `op` 011 selects `FEED`; it refuses an oversize chunk, and otherwise some run of the rule's loop, started on RB followed by
the chunk, ends in the registers it leaves, and it writes nothing but what the rule writes. -/
def Obligations.FeedFollowsThePseudocode : Prop :=
  (∀ r : Request, r.op = 0b011#3 → decodeRequest r = .feed r.data) ∧
  ∀ (chunk : Bytes) (s : State),
    (s.par.chunkMax < chunk.length → exec (.feed chunk) s = .refused .oversizeChunk) ∧
    (chunk.length ≤ s.par.chunkMax → ∃ n r,
      FeedRun s.par.nohdrPolicy n ⟨s.rb ++ chunk, s.chkErr, s.rxPkt, []⟩ r ∧
      exec (.feed chunk) s = .next (feedEffect chunk r s))

/-- R110: every run of the loop of R105 has at most `floor(n / 2) + 1` passes and is the one `FEED` performs. -/
def Obligations.EveryLoopRunIsShortAndIsTheFeed : Prop :=
  ∀ (chunk : Bytes) (s : State) (n : Nat) (r : Reasm), chunk.length ≤ s.par.chunkMax →
    FeedRun s.par.nohdrPolicy n ⟨s.rb ++ chunk, s.chkErr, s.rxPkt, []⟩ r →
    n ≤ (s.rb.length + chunk.length) / 2 + 1 ∧ exec (.feed chunk) s = .next (feedEffect chunk r s)

/-- R122: the header-sync state machine reaches DONE and leaves the registers `FEED` leaves. -/
def Obligations.SyncMachineComputesFeed : Prop :=
  ∀ (chunk : Bytes) (s : State), chunk.length ≤ s.par.chunkMax →
    ∃ k, ∀ m, k ≤ m →
      ((Fsm.start s.reasm chunk).iterate s.par.nohdrPolicy m).at_ = .done ∧
      exec (.feed chunk) s =
        .next (feedEffect chunk ((Fsm.start s.reasm chunk).iterate s.par.nohdrPolicy m).regs s)

/-- R112: `Inv(RB)` holds after every `FEED`, from whatever buffer, and after `RESET`. -/
def Obligations.BufferInvariantAfterFeedAndReset : Prop :=
  (∀ (chunk : Bytes) (s t : State), exec (.feed chunk) s = .next t → BufInv t.rb) ∧
  (∀ (s : State) (rest : List Event), s.pending = .reset :: rest → ∃ t, step s = .next t ∧ BufInv t.rb)

/-- R113, R9: RB holds at most 259 bytes between operations, and at most `BUF_CAP` at every point of a `FEED`. -/
def Obligations.BufferNeverExceedsCapacity : Prop :=
  ∀ (chunk : Bytes) (s : State), BufInv s.rb → chunk.length ≤ s.par.chunkMax →
    s.rb.length ≤ 259 ∧
    (∀ m, ((Fsm.start s.reasm chunk).iterate s.par.nohdrPolicy m).regs.rb.length ≤ s.par.bufCap) ∧
    ∃ t, exec (.feed chunk) s = .next t ∧ t.rb.length ≤ 259

/-- R114: an empty chunk changes nothing and returns no packet. -/
def Obligations.EmptyFeedIsNoOperation : Prop :=
  ∀ s : State, BufInv s.rb → exec (.feed []) s = .next { s with results := s.results ++ [.fed []] }

/-- R111: one `FEED` emits at most `floor(n / 5)` packets. -/
def Obligations.EmissionBound : Prop :=
  ∀ (chunk : Bytes) (s : State), chunk.length ≤ s.par.chunkMax →
    ∃ t out, exec (.feed chunk) s = .next t ∧ t.results = s.results ++ [.fed out] ∧
      out.length ≤ (s.rb.length + chunk.length) / 5

/-- R115, R116, R109, R24: RB and the chunk are split, in order, into emitted frames, the headers of candidates that fail their
checksum, discarded bytes in which no header starts, and the new RB; the packets emitted are those of the frames, RX_PKT counts
them and CHK_ERR the failed candidates, both saturating. -/
def Obligations.FeedAccountsForEveryByte : Prop :=
  ∀ (chunk : Bytes) (s : State), chunk.length ≤ s.par.chunkMax →
    ∃ t out segments, exec (.feed chunk) s = .next t ∧ t.results = s.results ++ [.fed out] ∧ t.pkts = s.pkts ++ out ∧
      Accounts (s.rb ++ chunk) t.rb out segments ∧ Judged t.rb segments ∧
      t.rxPkt.toNat = min (s.rxPkt.toNat + out.length) (2 ^ 32 - 1) ∧
      t.chkErr.toNat = min (s.chkErr.toNat + segments.count .failedHeader) (2 ^ 32 - 1)

/-- The receive side never touches the transmit side: what `FEED` leaves unchanged (R54, R105). -/
def Obligations.FeedLeavesTransmitSideAlone : Prop :=
  ∀ (chunk : Bytes) (s t : State), exec (.feed chunk) s = .next t →
    t.txs = s.txs ∧ t.par = s.par ∧ t.pending = s.pending ∧ t.rxs = s.rxs ++ chunk

/-- R24: a saturated counter stays saturated through every `FEED`. -/
def Obligations.SaturatedCountersStay : Prop :=
  ∀ (chunk : Bytes) (s t : State), exec (.feed chunk) s = .next t →
    (s.rxPkt = 0xFFFFFFFF#32 → t.rxPkt = 0xFFFFFFFF#32) ∧ (s.chkErr = 0xFFFFFFFF#32 → t.chkErr = 0xFFFFFFFF#32)

/-- R54: an `ENCODE` and a `FEED` commute: the block's state, the traces and both returned values are the same in either order; a
`DECODE` before or after a `FEED` returns the same. -/
def Obligations.TransmitAndReceiveCommute : Prop :=
  ∀ (cmd : Byte) (payload chunk : Bytes) (s : State), chunk.length ≤ s.par.chunkMax →
    ∃ t t' u u' a b, exec (.encode cmd payload) s = .next t ∧ exec (.feed chunk) t = .next t' ∧
      exec (.feed chunk) s = .next u ∧ exec (.encode cmd payload) u = .next u' ∧
      t'.results = s.results ++ [a, b] ∧ u' = { t' with results := s.results ++ [b, a] } ∧
      ∀ buf v, exec (.decode buf) s = .next v → ∃ c w, v.results = s.results ++ [c] ∧
        exec (.decode buf) u = .next w ∧ w.results = u.results ++ [c]

/-- R119: while the buffer starts with a header whose declared frame is incomplete, `FEED` only appends and emits nothing. -/
def Obligations.IncompleteCandidateStalls : Prop :=
  ∀ (chunk : Bytes) (s : State) (len : Byte), chunk.length ≤ s.par.chunkMax →
    HeaderAt (s.rb ++ chunk) 0 → (s.rb ++ chunk)[3]? = some len → (s.rb ++ chunk).length < 5 + len.toNat →
    exec (.feed chunk) s = .next { s with
      rb := s.rb ++ chunk, rxs := s.rxs ++ chunk, results := s.results ++ [.fed []] }

/-- R117, case 1: noise without an `AA 55` pair before a frame, all in one chunk, is dropped and the frame emitted. -/
def Obligations.LeadingNoiseIsDropped : Prop :=
  ∀ (noise payload : Bytes) (cmd : Byte) (s : State), s.rb = [] → NoHeader noise → payload.length ≤ 255 →
    (noise ++ buildFrame cmd payload).length ≤ s.par.chunkMax →
    exec (.feed (noise ++ buildFrame cmd payload)) s = .next { s with
      rxPkt := satInc s.rxPkt
      pkts := s.pkts ++ [⟨cmd, payload⟩]
      rxs := s.rxs ++ (noise ++ buildFrame cmd payload)
      results := s.results ++ [.fed [⟨cmd, payload⟩]] }

/-- R117, cases 2 to 4: a stream made only of valid frames, whatever their payloads, is emitted frame by frame under every chunking and
either policy. -/
def Obligations.ValidStreamSurvivesAnyChunking : Prop :=
  ∀ (packets : List Packet) (chunks : List Bytes) (s : State), s.rb = [] →
    (∀ p ∈ packets, p.payload.length ≤ 255) → (∀ c ∈ chunks, c.length ≤ s.par.chunkMax) →
    chunks.flatten = packets.flatMap (fun p => buildFrame p.cmd p.payload) →
    ∃ t, feedAll chunks s = .next t ∧ t.pkts = s.pkts ++ packets ∧ t.rb = [] ∧ t.chkErr = s.chkErr

/-- R121: one frame among three with a wrong checksum byte, and no header inside what follows its own, costs itself and one count. -/
def Obligations.OneCorruptFrameCostsOnePacket : Prop :=
  ∀ (p q r : Packet) (wrong : Byte) (s : State), s.rb = [] →
    p.payload.length ≤ 255 → q.payload.length ≤ 255 → r.payload.length ≤ 255 →
    wrong ≠ xorFold (frameBody q.cmd q.payload) → NoHeader ((frameBody q.cmd q.payload ++ [wrong]).drop 2) →
    (buildFrame p.cmd p.payload ++ (frameBody q.cmd q.payload ++ [wrong]) ++ buildFrame r.cmd r.payload).length ≤ s.par.chunkMax →
    ∃ t, exec (.feed (buildFrame p.cmd p.payload ++ (frameBody q.cmd q.payload ++ [wrong]) ++ buildFrame r.cmd r.payload)) s = .next t ∧
      t.pkts = s.pkts ++ [p, r] ∧ t.rb = [] ∧ t.chkErr = satInc s.chkErr ∧ t.rxPkt = satInc (satInc s.rxPkt)

/-- R118 under `KEEP_TAIL_AA`: the packets emitted and the counter increments depend only on the RX stream, not on how it is cut into
chunks. -/
def Obligations.KeepTailIgnoresChunking : Prop :=
  ∀ (chunks chunks' : List Bytes) (s : State), s.par.nohdrPolicy = .keepTailAA → BufInv s.rb →
    (∀ c ∈ chunks, c.length ≤ s.par.chunkMax) → (∀ c ∈ chunks', c.length ≤ s.par.chunkMax) →
    chunks.flatten = chunks'.flatten →
    ∃ t t', feedAll chunks s = .next t ∧ feedAll chunks' s = .next t' ∧
      t.pkts = t'.pkts ∧ t.chkErr = t'.chkErr ∧ t.rxPkt = t'.rxPkt

/-- R118, R167 under `DISCARD_ALL`: the rule's example of a header split by a chunk boundary, against the same bytes in one chunk. -/
def Obligations.DiscardAllLosesSplitHeader : Prop :=
  ∀ s : State, s.rb = [] → s.par.nohdrPolicy = .discardAll → 9 ≤ s.par.chunkMax →
    ∃ t u, feedAll [[0x00, 0x01, 0x02, 0x03, 0xAA], [0x55, 0x01, 0x00, 0xFE]] s = .next t ∧
      t.pkts = s.pkts ∧ t.rb = [0x55, 0x01, 0x00, 0xFE] ∧
      exec (.feed [0x00, 0x01, 0x02, 0x03, 0xAA, 0x55, 0x01, 0x00, 0xFE]) s = .next u ∧
      u.pkts = s.pkts ++ [⟨0x01, []⟩] ∧ u.rb = []

/-- R32: two states alike but for RB, `[AA]` against `[00]`, read alike on every status index and emit differently on one chunk. -/
def Obligations.HiddenBufferMatters : Prop :=
  ∀ s : State, 4 ≤ s.par.chunkMax →
    (∀ idx : BitVec 2, statusRegister { s with rb := [0xAA] } idx = statusRegister { s with rb := [0x00] } idx) ∧
    ∃ t u, exec (.feed [0x55, 0x01, 0x00, 0xFE]) { s with rb := [0xAA] } = .next t ∧
      exec (.feed [0x55, 0x01, 0x00, 0xFE]) { s with rb := [0x00] } = .next u ∧
      t.pkts = s.pkts ++ [⟨0x01, []⟩] ∧ u.pkts = s.pkts

/-- R123: what one byte does to the buffer and the sync state, from every sync state. -/
def Obligations.ByteSerialTransitions : Prop :=
  ∀ (b : Byte) (s : State), 1 ≤ s.par.chunkMax → BufInv s.rb →
    ∃ t, exec (.feed [b]) s = .next t ∧
    (s.rb.length ≤ 3 → t.rb = s.rb ++ [b] ∧ t.pkts = s.pkts ∧
      (syncState s.rb = .idle → syncState t.rb = .hunt) ∧
      (syncState s.rb = .hunt → syncState t.rb = if s.rb = [0xAA#8] ∧ b = 0x55#8 then .header else .hunt) ∧
      (syncState s.rb = .header → syncState t.rb = if s.rb.length = 2 then .header else .body)) ∧
    (syncState s.rb = .body → ∀ len, s.rb[3]? = some len →
      (s.rb.length + 1 < 5 + len.toNat → t.rb = s.rb ++ [b] ∧ syncState t.rb = .body ∧ t.pkts = s.pkts) ∧
      (s.rb.length + 1 = 5 + len.toNat →
        (∀ p, decodeResult (s.rb ++ [b]) = .ok p →
          t.rb = [] ∧ syncState t.rb = .idle ∧ t.pkts = s.pkts ++ [p] ∧ t.rxPkt = satInc s.rxPkt ∧ t.chkErr = s.chkErr) ∧
        ((∀ p, decodeResult (s.rb ++ [b]) ≠ .ok p) →
          ∃ u, exec (.feed []) { s with rb := (s.rb ++ [b]).drop 2, chkErr := satInc s.chkErr } = .next u ∧
            t.rb = u.rb ∧ t.chkErr = u.chkErr ∧ t.rxPkt = u.rxPkt ∧ t.pkts = u.pkts))) ∧
    (syncState s.rb = .hunt → s.rb.length = 4 →
      t.pkts = s.pkts ∧
      (FirstHeader (s.rb ++ [b]) 1 → t.rb = (s.rb ++ [b]).drop 1 ∧ syncState t.rb = .body) ∧
      (∀ k, k = 2 ∨ k = 3 → FirstHeader (s.rb ++ [b]) k → t.rb = (s.rb ++ [b]).drop k ∧ syncState t.rb = .header) ∧
      (NoHeader (s.rb ++ [b]) →
        (s.par.nohdrPolicy = .keepTailAA ∧ b = 0xAA#8 → t.rb = [0xAA] ∧ syncState t.rb = .hunt) ∧
        (¬ (s.par.nohdrPolicy = .keepTailAA ∧ b = 0xAA#8) → t.rb = [] ∧ syncState t.rb = .idle)))

/-! ### The invariant of the machine -/

/-- Every step keeps the invariant: parameters within bounds, R112's buffer invariant, TXS the returned frames, PKTS the returned packets,
every returned frame well-formed, every byte of the RX stream accounted for (R112, R46, R53, R63, R115, R116). -/
def Obligations.EveryStepKeepsTheInvariant : Prop :=
  ∀ s t : State, Inv s → step s = .next t → Inv t

/-- The invariant holds at reset (R34; with the empty traces of log entries 3 and 4 and the parameters of log entry 1). -/
def Obligations.ResetHasTheInvariant : Prop := Inv State.reset
end

