-- ==== Sys2Proof/Laws/Codec.lean ====
section
/-! SUPPORT. Operands, the header search, the XOR fold and the codec: one specification lemma each. -/

namespace Sys2Proof.Machine

open Sys2Proof.Safety

/-- The limit check is a comparison of lengths. -/
@[simp] theorem longerThan_iff (s : Bytes) (n : Nat) : longerThan s n = true ↔ n < s.length := by
  induction s generalizing n with
  | nil => simp [longerThan]
  | cons b s ih => cases n <;> simp [longerThan, ih]

theorem byteAt_eq_iff (s : Bytes) (i : Nat) (b : Byte) (hb : b ≠ 0x00#8) : byteAt s i = b ↔ s[i]? = some b := by
  unfold byteAt
  rw [List.getD_eq_getElem?_getD]
  cases s[i]? with
  | none => simp [Ne.symm hb]
  | some c => simp

/-- `hasHeader` says that a header stands at index 0. -/
theorem hasHeader_iff (s : Bytes) : hasHeader s = true ↔ HeaderAt s 0 := by
  simp only [hasHeader, Bool.and_eq_true, beq_iff_eq, HeaderAt]
  rw [byteAt_eq_iff s 0 Config.hdr0 (by decide), byteAt_eq_iff s 1 Config.hdr1 (by decide)]
  rfl

@[simp] theorem headerAt_cons_succ (b : Byte) (s : Bytes) (k : Nat) : HeaderAt (b :: s) (k + 1) ↔ HeaderAt s k := Iff.rfl

theorem headerAt_lt {s : Bytes} {k : Nat} (h : HeaderAt s k) : k + 1 < s.length :=
  (List.getElem?_eq_some_iff.mp h.2).1

/-- `find_hdr` answers the least index of a header (R106). -/
theorem findHdr_eq_some_iff (s : Bytes) (k : Nat) : findHdr s = some k ↔ FirstHeader s k := by
  induction s generalizing k with
  | nil => simp [findHdr, FirstHeader, HeaderAt]
  | cons a s ih =>
    cases s with
    | nil => simp [findHdr, FirstHeader, HeaderAt]
    | cons b t =>
      unfold findHdr
      by_cases hab : a = Config.hdr0 ∧ b = Config.hdr1
      · have h0 : HeaderAt (a :: b :: t) 0 := by simpa [HeaderAt, Config.hdr0, Config.hdr1] using hab
        rw [if_pos hab]
        constructor
        · rintro h
          cases h
          exact ⟨h0, fun j hj => absurd hj (Nat.not_lt_zero j)⟩
        · rintro ⟨_, hmin⟩
          cases k with
          | zero => rfl
          | succ k => exact absurd h0 (hmin 0 (Nat.succ_pos k))
      · have h0 : ¬ HeaderAt (a :: b :: t) 0 := by simpa [HeaderAt, Config.hdr0, Config.hdr1] using hab
        rw [if_neg hab]
        cases k with
        | zero => simp [FirstHeader, h0]
        | succ k =>
          simp only [Option.map_eq_some_iff, Nat.add_right_cancel_iff, exists_eq_right, ih, FirstHeader, headerAt_cons_succ]
          refine and_congr_right fun _ => ⟨fun h j hj => ?_, fun h j hj => ?_⟩
          · cases j with
            | zero => exact h0
            | succ j => exact h j (by omega)
          · exact h (j + 1) (by omega)

/-- `find_hdr` answers `NONE` when no header stands anywhere (R106). -/
theorem findHdr_eq_none_iff (s : Bytes) : findHdr s = none ↔ NoHeader s := by
  constructor
  · intro h j hj
    have hex : ∃ k, HeaderAt s k := ⟨j, hj⟩
    classical
    have := (findHdr_eq_some_iff s (Nat.find hex)).mpr ⟨Nat.find_spec hex, fun i hi => Nat.find_min hex hi⟩
    rw [h] at this
    cases this
  · intro h
    cases hf : findHdr s with
    | none => rfl
    | some k => exact absurd ((findHdr_eq_some_iff s k).mp hf).1 (h k)

/-- A fold from any start is the start against the fold from zero. -/
theorem foldl_xor_start (s : Bytes) (a : Byte) : s.foldl (fun acc b => acc ^^^ b) a = a ^^^ xorFold s := by
  unfold xorFold
  induction s generalizing a with
  | nil => simp
  | cons b s ih => rw [List.foldl_cons, List.foldl_cons, ih (a ^^^ b), ih (0x00#8 ^^^ b)]; simp [BitVec.xor_assoc]

@[simp] theorem xorFold_nil : xorFold [] = 0x00#8 := rfl

@[simp] theorem xorFold_cons (b : Byte) (s : Bytes) : xorFold (b :: s) = b ^^^ xorFold s := by
  rw [xorFold, List.foldl_cons, foldl_xor_start]; simp

/-- `XOR(s ++ t) = XOR(s) ^ XOR(t)` (R94). -/
theorem xorFold_append (s t : Bytes) : xorFold (s ++ t) = xorFold s ^^^ xorFold t := by
  rw [xorFold, List.foldl_append, foldl_xor_start]; rfl

@[simp] theorem frameBody_length (cmd : Byte) (payload : Bytes) : (frameBody cmd payload).length = 4 + payload.length := by
  simp [frameBody]; omega

@[simp] theorem buildFrame_length (cmd : Byte) (payload : Bytes) : (buildFrame cmd payload).length = 5 + payload.length := by
  simp [buildFrame]; omega

/-- What `DECODE` answers, one case per check (R89). -/
theorem decodePacket_cases (buf : Bytes) :
    (decodePacket buf = .error .incomplete ∧ buf.length < 5) ∨
    (decodePacket buf = .error .badHeader ∧ 5 ≤ buf.length ∧ ¬ HeaderAt buf 0) ∨
    (decodePacket buf = .error .incomplete ∧ HeaderAt buf 0 ∧ 5 ≤ buf.length ∧ buf.length < frameTotal buf) ∨
    (decodePacket buf = .error .checksumMismatch ∧ HeaderAt buf 0 ∧ frameTotal buf ≤ buf.length ∧
      byteAt buf (4 + lenField buf) ≠ checksum buf (lenField buf)) ∨
    (decodePacket buf = .ok ⟨cmdField buf, slice buf 4 (4 + lenField buf)⟩ ∧ HeaderAt buf 0 ∧
      frameTotal buf ≤ buf.length ∧ byteAt buf (4 + lenField buf) = checksum buf (lenField buf)) := by
  unfold decodePacket Config.minFrame
  by_cases h1 : buf.length < 5
  · simp [h1]
  rw [if_neg h1]
  by_cases h2 : hasHeader buf = false
  · have : ¬ HeaderAt buf 0 := by rw [← hasHeader_iff, h2]; decide
    rw [if_pos h2]
    exact .inr (.inl ⟨rfl, by omega, this⟩)
  have h2' : HeaderAt buf 0 := (hasHeader_iff buf).mp (by simpa using h2)
  rw [if_neg h2]
  by_cases h3 : buf.length < frameTotal buf
  · rw [if_pos h3]
    exact .inr (.inr (.inl ⟨rfl, h2', by omega, h3⟩))
  rw [if_neg h3]
  by_cases h4 : byteAt buf (4 + lenField buf) = checksum buf (lenField buf)
  · rw [if_neg (by simpa using h4)]
    exact .inr (.inr (.inr (.inr ⟨rfl, h2', by omega, h4⟩)))
  · rw [if_pos h4]
    exact .inr (.inr (.inr (.inl ⟨rfl, h2', by omega, h4⟩)))

/-- What `DECODE` accepts starts with the frame of the packet it answers (R61, R85, R89). -/
theorem decodePacket_ok_frame {b : Bytes} {p : Packet} (h : decodePacket b = .ok p) :
    p.payload.length ≤ 255 ∧ ∃ rest, b = buildFrame p.cmd p.payload ++ rest := by
  rcases decodePacket_cases b with h' | h' | h' | h' | ⟨h', hh, hl, hc⟩ <;> rw [h] at h'
  · cases h'.1
  · cases h'.1
  · cases h'.1
  · cases h'.1
  cases h'
  match b, hh, hl with
  | a0 :: a1 :: a2 :: a3 :: t, hh, hl =>
    simp [HeaderAt] at hh
    obtain ⟨rfl, rfl⟩ := hh
    have hL : lenField (170#8 :: 85#8 :: a2 :: a3 :: t) = a3.toNat := rfl
    simp only [frameTotal, hL, List.length_cons] at hl
    have hlt := a3.isLt
    have hx : a3.toNat < t.length := by omega
    have hpl : slice (170#8 :: 85#8 :: a2 :: a3 :: t) 4 (4 + a3.toNat) = t.take a3.toNat := by simp [slice]
    have hlen : (t.take a3.toNat).length = a3.toNat := by simp; omega
    rw [hL, hpl]
    refine ⟨by simp only [hlen]; omega, t.drop (a3.toNat + 1), ?_⟩
    have hn : byteAt (170#8 :: 85#8 :: a2 :: a3 :: t) (4 + a3.toNat) = t.getD a3.toNat 0 := by
      simp [byteAt, Nat.add_comm 4]
    have hck : checksum (170#8 :: 85#8 :: a2 :: a3 :: t) a3.toNat =
        xorFold (170#8 :: 85#8 :: a2 :: a3 :: t.take a3.toNat) := by
      simp [checksum, slice, Nat.add_comm 4, -xorFold_cons]
    rw [hL, hn, hck] at hc
    have h2 : byteAt (170#8 :: 85#8 :: a2 :: a3 :: t) 2 = a2 := rfl
    have h3 : BitVec.ofNat 8 a3.toNat = a3 := by simp
    simp only [buildFrame, frameBody, cmdField, hlen, h2, h3, Config.hdr0, Config.hdr1, List.cons_append, List.nil_append,
      List.append_assoc]
    rw [← hc]
    have ht : t = t.take a3.toNat ++ (t.getD a3.toNat 0 :: t.drop (a3.toNat + 1)) := by
      rw [List.getD_eq_getElem?_getD, List.getElem?_eq_getElem hx, Option.getD_some, ← List.drop_eq_getElem_cons hx,
        List.take_append_drop]
    conv_lhs => rw [ht]

/-- A frame, followed by anything, is accepted (R89, R90). -/
theorem decodePacket_buildFrame (cmd : Byte) (payload rest : Bytes) (hp : payload.length ≤ 255) :
    decodePacket (buildFrame cmd payload ++ rest) = .ok ⟨cmd, payload⟩ := by
  have hL : lenField (buildFrame cmd payload ++ rest) = payload.length := by
    simp [lenField, buildFrame, frameBody, byteAt]; omega
  have hT : frameTotal (buildFrame cmd payload ++ rest) = 5 + payload.length := by rw [frameTotal, hL]; omega
  have hH : HeaderAt (buildFrame cmd payload ++ rest) 0 := by
    simp [HeaderAt, buildFrame, frameBody, Config.hdr0, Config.hdr1]
  have hlen : (buildFrame cmd payload ++ rest).length = 5 + payload.length + rest.length := by simp
  have e1 : byteAt (buildFrame cmd payload ++ rest) (4 + payload.length) = xorFold (frameBody cmd payload) := by
    rw [← frameBody_length cmd payload, byteAt, List.getD_eq_getElem?_getD, buildFrame, List.append_assoc,
      List.getElem?_append_right le_rfl]
    simp
  have e2 : checksum (buildFrame cmd payload ++ rest) payload.length = xorFold (frameBody cmd payload) := by
    rw [checksum, slice, List.drop_zero, Nat.sub_zero, ← frameBody_length cmd payload, buildFrame, List.append_assoc,
      List.take_left]
  rcases decodePacket_cases (buildFrame cmd payload ++ rest) with h' | h' | h' | h' | ⟨h', -⟩
  · omega
  · exact absurd hH h'.2.2
  · omega
  · exact absurd (by rw [hL, e1, e2]) h'.2.2.2
  · rw [h', hL]
    simp [cmdField, byteAt, buildFrame, frameBody, slice]

/-- The inputs `DECODE` accepts, and what it answers: a frame of the packet, followed by anything (R61, R85, R89). -/
theorem decodePacket_ok_iff (b : Bytes) (p : Packet) : decodePacket b = .ok p ↔
    p.payload.length ≤ 255 ∧ ∃ rest, b = buildFrame p.cmd p.payload ++ rest := by
  refine ⟨decodePacket_ok_frame, ?_⟩
  rintro ⟨hp, rest, rfl⟩
  exact decodePacket_buildFrame p.cmd p.payload rest hp

end Sys2Proof.Machine
end

