-- ==== Sys2Proof/Laws/PerInstr.lean ====
section
/-! SUPPORT. What the well-formedness check says, row by row, and statements about every instruction as syntax, one lemma per
constructor. -/

namespace Sys2Proof

theorem reservedCmdValue_iff (cmd : Byte) :
    reservedCmdValue cmd = true ↔ cmd ≠ 0x01#8 ∧ cmd ≠ 0x02#8 ∧ cmd ≠ 0xFF#8 := by
  simp [reservedCmdValue, and_assoc]

theorem Instr.wellFormed_ping (p : Params) (payload : Bytes) :
    (Instr.ping payload).wellFormed p = true ↔ payload.length ≤ 255 := decide_eq_true_iff

theorem Instr.wellFormed_ledControl (p : Params) (payload : Bytes) :
    (Instr.ledControl payload).wellFormed p = true ↔ payload.length ≤ 255 := decide_eq_true_iff

theorem Instr.wellFormed_emergencyStop (p : Params) (payload : Bytes) :
    (Instr.emergencyStop payload).wellFormed p = true ↔ payload.length ≤ 255 := decide_eq_true_iff

theorem Instr.wellFormed_reservedCmd (p : Params) (cmd : Byte) (payload : Bytes) :
    (Instr.reservedCmd cmd payload).wellFormed p = true ↔
      (cmd ≠ 0x01#8 ∧ cmd ≠ 0x02#8 ∧ cmd ≠ 0xFF#8) ∧ payload.length ≤ 255 := by
  rw [← reservedCmdValue_iff]
  exact (Bool.and_eq_true_iff).trans (and_congr Iff.rfl decide_eq_true_iff)

theorem Instr.wellFormed_decode (p : Params) (buf : Bytes) :
    (Instr.decode buf).wellFormed p = true ↔ buf.length ≤ p.decInMax := decide_eq_true_iff

theorem Instr.wellFormed_feed (p : Params) (chunk : Bytes) :
    (Instr.feed chunk).wellFormed p = true ↔ chunk.length ≤ p.chunkMax := decide_eq_true_iff

end Sys2Proof

namespace Sys2Proof.Laws

/-- What one build's ports can carry, the ports of a build with no smaller limits can carry. -/
def LargerBuild.Statement (i : Instr) : Prop :=
  ∀ p q : Params, p.chunkMax ≤ q.chunkMax → p.decInMax ≤ q.decInMax → i.wellFormed p = true → i.wellFormed q = true

theorem LargerBuild.encode (cmd : Byte) (payload : Bytes) : LargerBuild.Statement (.encode cmd payload) :=
  fun _ _ _ _ h => h

theorem LargerBuild.decode (buf : Bytes) : LargerBuild.Statement (.decode buf) := by
  intro p q _ hd h
  rw [Instr.wellFormed_decode] at *
  exact h.trans hd

theorem LargerBuild.feed (chunk : Bytes) : LargerBuild.Statement (.feed chunk) := by
  intro p q hc _ h
  rw [Instr.wellFormed_feed] at *
  exact h.trans hc

theorem LargerBuild.readStatus (idx : BitVec 2) : LargerBuild.Statement (.readStatus idx) := fun _ _ _ _ h => h

theorem LargerBuild.reservedOp000 : LargerBuild.Statement .reservedOp000 := fun _ _ _ _ h => h

theorem LargerBuild.reservedOp101 : LargerBuild.Statement .reservedOp101 := fun _ _ _ _ h => h

theorem LargerBuild.reservedOp110 : LargerBuild.Statement .reservedOp110 := fun _ _ _ _ h => h

theorem LargerBuild.reservedOp111 : LargerBuild.Statement .reservedOp111 := fun _ _ _ _ h => h

theorem LargerBuild.ping (payload : Bytes) : LargerBuild.Statement (.ping payload) := fun _ _ _ _ h => h

theorem LargerBuild.ledControl (payload : Bytes) : LargerBuild.Statement (.ledControl payload) := fun _ _ _ _ h => h

theorem LargerBuild.emergencyStop (payload : Bytes) : LargerBuild.Statement (.emergencyStop payload) :=
  fun _ _ _ _ h => h

theorem LargerBuild.reservedCmd (cmd : Byte) (payload : Bytes) : LargerBuild.Statement (.reservedCmd cmd payload) :=
  fun _ _ _ _ h => h

end Sys2Proof.Laws
end

