-- ==== Sys2Proof/Laws/State.lean ====
section
/-! SUPPORT. One lemma per field per update of the state. -/

namespace Sys2Proof.Machine

@[simp] theorem State.respond_rb (s : State) (r : Response) : (s.respond r).rb = s.rb := rfl
@[simp] theorem State.respond_chkErr (s : State) (r : Response) : (s.respond r).chkErr = s.chkErr := rfl
@[simp] theorem State.respond_rxPkt (s : State) (r : Response) : (s.respond r).rxPkt = s.rxPkt := rfl
@[simp] theorem State.respond_txs (s : State) (r : Response) : (s.respond r).txs = s.txs := rfl
@[simp] theorem State.respond_pkts (s : State) (r : Response) : (s.respond r).pkts = s.pkts := rfl
@[simp] theorem State.respond_rxs (s : State) (r : Response) : (s.respond r).rxs = s.rxs := rfl
@[simp] theorem State.respond_results (s : State) (r : Response) : (s.respond r).results = s.results ++ [r] := rfl
@[simp] theorem State.respond_par (s : State) (r : Response) : (s.respond r).par = s.par := rfl
@[simp] theorem State.respond_pending (s : State) (r : Response) : (s.respond r).pending = s.pending := rfl

@[simp] theorem State.txAppend_rb (s : State) (frame : Bytes) : (s.txAppend frame).rb = s.rb := rfl
@[simp] theorem State.txAppend_chkErr (s : State) (frame : Bytes) : (s.txAppend frame).chkErr = s.chkErr := rfl
@[simp] theorem State.txAppend_rxPkt (s : State) (frame : Bytes) : (s.txAppend frame).rxPkt = s.rxPkt := rfl
@[simp] theorem State.txAppend_txs (s : State) (frame : Bytes) : (s.txAppend frame).txs = s.txs ++ frame := rfl
@[simp] theorem State.txAppend_pkts (s : State) (frame : Bytes) : (s.txAppend frame).pkts = s.pkts := rfl
@[simp] theorem State.txAppend_rxs (s : State) (frame : Bytes) : (s.txAppend frame).rxs = s.rxs := rfl
@[simp] theorem State.txAppend_results (s : State) (frame : Bytes) : (s.txAppend frame).results = s.results := rfl
@[simp] theorem State.txAppend_par (s : State) (frame : Bytes) : (s.txAppend frame).par = s.par := rfl
@[simp] theorem State.txAppend_pending (s : State) (frame : Bytes) : (s.txAppend frame).pending = s.pending := rfl

@[simp] theorem State.receive_rb (s : State) (chunk : Bytes) : (s.receive chunk).rb = s.rb := rfl
@[simp] theorem State.receive_chkErr (s : State) (chunk : Bytes) : (s.receive chunk).chkErr = s.chkErr := rfl
@[simp] theorem State.receive_rxPkt (s : State) (chunk : Bytes) : (s.receive chunk).rxPkt = s.rxPkt := rfl
@[simp] theorem State.receive_txs (s : State) (chunk : Bytes) : (s.receive chunk).txs = s.txs := rfl
@[simp] theorem State.receive_pkts (s : State) (chunk : Bytes) : (s.receive chunk).pkts = s.pkts := rfl
@[simp] theorem State.receive_rxs (s : State) (chunk : Bytes) : (s.receive chunk).rxs = s.rxs ++ chunk := rfl
@[simp] theorem State.receive_results (s : State) (chunk : Bytes) : (s.receive chunk).results = s.results := rfl
@[simp] theorem State.receive_par (s : State) (chunk : Bytes) : (s.receive chunk).par = s.par := rfl
@[simp] theorem State.receive_pending (s : State) (chunk : Bytes) : (s.receive chunk).pending = s.pending := rfl

@[simp] theorem State.withReasm_rb (s : State) (r : Reasm) : (s.withReasm r).rb = r.rb := rfl
@[simp] theorem State.withReasm_chkErr (s : State) (r : Reasm) : (s.withReasm r).chkErr = r.chkErr := rfl
@[simp] theorem State.withReasm_rxPkt (s : State) (r : Reasm) : (s.withReasm r).rxPkt = r.rxPkt := rfl
@[simp] theorem State.withReasm_txs (s : State) (r : Reasm) : (s.withReasm r).txs = s.txs := rfl
@[simp] theorem State.withReasm_pkts (s : State) (r : Reasm) : (s.withReasm r).pkts = s.pkts ++ r.out := rfl
@[simp] theorem State.withReasm_rxs (s : State) (r : Reasm) : (s.withReasm r).rxs = s.rxs := rfl
@[simp] theorem State.withReasm_results (s : State) (r : Reasm) : (s.withReasm r).results = s.results := rfl
@[simp] theorem State.withReasm_par (s : State) (r : Reasm) : (s.withReasm r).par = s.par := rfl
@[simp] theorem State.withReasm_pending (s : State) (r : Reasm) : (s.withReasm r).pending = s.pending := rfl

@[simp] theorem State.takeReset_rb (s : State) : (s.takeReset).rb = [] := rfl
@[simp] theorem State.takeReset_chkErr (s : State) : (s.takeReset).chkErr = 0 := rfl
@[simp] theorem State.takeReset_rxPkt (s : State) : (s.takeReset).rxPkt = 0 := rfl
@[simp] theorem State.takeReset_txs (s : State) : (s.takeReset).txs = s.txs := rfl
@[simp] theorem State.takeReset_pkts (s : State) : (s.takeReset).pkts = s.pkts := rfl
@[simp] theorem State.takeReset_rxs (s : State) : (s.takeReset).rxs = s.rxs := rfl
@[simp] theorem State.takeReset_results (s : State) : (s.takeReset).results = s.results := rfl
@[simp] theorem State.takeReset_par (s : State) : (s.takeReset).par = s.par := rfl
@[simp] theorem State.takeReset_pending (s : State) : (s.takeReset).pending = s.pending := rfl

@[simp] theorem State.reasm_rb (s : State) : s.reasm.rb = s.rb := rfl
@[simp] theorem State.reasm_chkErr (s : State) : s.reasm.chkErr = s.chkErr := rfl
@[simp] theorem State.reasm_rxPkt (s : State) : s.reasm.rxPkt = s.rxPkt := rfl
@[simp] theorem State.reasm_out (s : State) : s.reasm.out = [] := rfl

@[simp] theorem State.init_rb (p : Params) : (State.init p).rb = [] := rfl
@[simp] theorem State.init_chkErr (p : Params) : (State.init p).chkErr = 0 := rfl
@[simp] theorem State.init_rxPkt (p : Params) : (State.init p).rxPkt = 0 := rfl
@[simp] theorem State.init_txs (p : Params) : (State.init p).txs = [] := rfl
@[simp] theorem State.init_pkts (p : Params) : (State.init p).pkts = [] := rfl
@[simp] theorem State.init_rxs (p : Params) : (State.init p).rxs = [] := rfl
@[simp] theorem State.init_results (p : Params) : (State.init p).results = [] := rfl
@[simp] theorem State.init_par (p : Params) : (State.init p).par = p := rfl
@[simp] theorem State.init_pending (p : Params) : (State.init p).pending = [] := rfl

end Sys2Proof.Machine
end

