-- ==== Sys2Proof/Laws/Reassembler.lean ====
section
/-! SUPPORT. The shared operations of the machine and the reassembly loop: what each can do, said once. -/

namespace Sys2Proof.Machine

open Sys2Proof.Safety

/-- `sat_inc` counts up to the greatest word and stays there (R16, R24). -/
theorem satInc_toNat (c : Word) : (satInc c).toNat = min (c.toNat + 1) (2 ^ 32 - 1) := by
  have := c.isLt
  unfold satInc
  split
  · rw [BitVec.toNat_add]; simp; omega
  · omega

/-- What sending a frame can do to the state. -/
theorem sendFrame_cases (cmd : Byte) (payload : Bytes) (s : State) :
    (255 < payload.length ∧ sendFrame cmd payload s = s.respond (.encoded (.error .payloadTooLarge))) ∨
    (payload.length ≤ 255 ∧ sendFrame cmd payload s =
      (s.txAppend (buildFrame cmd payload)).respond (.encoded (.ok (buildFrame cmd payload)))) := by
  unfold sendFrame encodePacket Config.maxPayload
  by_cases h : 255 < payload.length
  · exact .inl ⟨h, by rw [if_pos h]⟩
  · exact .inr ⟨by omega, by rw [if_neg h]⟩

/-- What `FEED` can do to the state. -/
theorem execFeed_cases (chunk : Bytes) (s : State) :
    (s.par.chunkMax < chunk.length ∧ execFeed chunk s = .refused .oversizeChunk) ∨
    (chunk.length ≤ s.par.chunkMax ∧
      execFeed chunk s = .next (feedEffect chunk (s.reasm.feed s.par.nohdrPolicy chunk) s)) := by
  unfold execFeed
  by_cases h : s.par.chunkMax < chunk.length
  · exact .inl ⟨h, by rw [if_pos (by simpa using h)]; rfl⟩
  · exact .inr ⟨by omega, by rw [if_neg (by simpa using h)]; rfl⟩

/-- What one pass can do: stop for want of bytes, discard, or deal with the candidate at the first header (R105). -/
theorem pass_cases (policy : NohdrPolicy) (r : Reasm) :
    (r.rb.length < 5 ∧ r.pass policy = (r, false)) ∨
    (5 ≤ r.rb.length ∧ NoHeader r.rb ∧ r.pass policy = ({ r with rb := noHeaderDiscard policy r.rb }, false)) ∨
    (5 ≤ r.rb.length ∧ ∃ k, FirstHeader r.rb k ∧ r.pass policy = Reasm.candidate { r with rb := r.rb.drop k }) := by
  unfold Reasm.pass Config.minFrame
  by_cases h5 : r.rb.length < 5
  · exact .inl ⟨h5, if_pos h5⟩
  rw [if_neg h5]
  cases hk : findHdr r.rb with
  | none => exact .inr (.inl ⟨by omega, (findHdr_eq_none_iff r.rb).mp hk, rfl⟩)
  | some k => exact .inr (.inr ⟨by omega, k, (findHdr_eq_some_iff r.rb k).mp hk, rfl⟩)

/-- What can become of a buffer once a header stands at its front: stop for want of bytes, emit its frame, or drop its header
(steps 4 to 6 of R105, R91). -/
theorem candidate_cases (r : Reasm) (h : HeaderAt r.rb 0) :
    ((r.rb.length < 4 ∨ r.rb.length < frameTotal r.rb) ∧ r.candidate = (r, false)) ∨
    (frameTotal r.rb ≤ r.rb.length ∧ ∃ p, decodePacket (slice r.rb 0 (frameTotal r.rb)) = .ok p ∧
      r.candidate = ({ r with rb := r.rb.drop (frameTotal r.rb), rxPkt := satInc r.rxPkt, out := r.out ++ [p] }, true)) ∨
    (frameTotal r.rb ≤ r.rb.length ∧ decodePacket (slice r.rb 0 (frameTotal r.rb)) = .error .checksumMismatch ∧
      r.candidate = ({ r with rb := r.rb.drop 2, chkErr := satInc r.chkErr }, true)) := by
  unfold Reasm.candidate
  by_cases h4 : r.rb.length < 4
  · exact .inl ⟨.inl h4, if_pos h4⟩
  rw [if_neg h4]
  by_cases ht : r.rb.length < frameTotal r.rb
  · exact .inl ⟨.inr ht, if_pos ht⟩
  rw [if_neg ht]
  have hle : frameTotal r.rb ≤ r.rb.length := by omega
  have h5 : 5 ≤ frameTotal r.rb := by unfold frameTotal; omega
  have hlen : (slice r.rb 0 (frameTotal r.rb)).length = frameTotal r.rb := by simp [slice]; omega
  have hget : ∀ i, i < frameTotal r.rb → (slice r.rb 0 (frameTotal r.rb))[i]? = r.rb[i]? := by
    intro i hi
    simp [slice, hi]
  have hhdr : HeaderAt (slice r.rb 0 (frameTotal r.rb)) 0 := by
    unfold HeaderAt
    rw [hget 0 (by omega), hget (0 + 1) (by omega)]
    exact h
  have htot : frameTotal (slice r.rb 0 (frameTotal r.rb)) = frameTotal r.rb := by
    have h3 : byteAt (slice r.rb 0 (frameTotal r.rb)) 3 = byteAt r.rb 3 := by
      unfold byteAt
      rw [List.getD_eq_getElem?_getD, List.getD_eq_getElem?_getD, hget 3 (by omega)]
    rw [frameTotal, lenField, h3]
    rfl
  rcases decodePacket_cases (slice r.rb 0 (frameTotal r.rb)) with h | h | h | h | h
  · omega
  · exact absurd hhdr h.2.2
  · omega
  · exact .inr (.inr ⟨hle, h.1, by rw [h.1]; rfl⟩)
  · exact .inr (.inl ⟨hle, _, h.1, by rw [h.1]; rfl⟩)

/-- Dropping up to the first header leaves it at the front. -/
theorem headerAt_drop {s : Bytes} {k : Nat} (h : HeaderAt s k) : HeaderAt (s.drop k) 0 := by
  simpa [HeaderAt] using h

/-- A pass that goes on shortens the buffer by at least 2 bytes (R110). -/
theorem pass_shortens (policy : NohdrPolicy) (r : Reasm) (h : (r.pass policy).2 = true) :
    (r.pass policy).1.rb.length + 2 ≤ r.rb.length := by
  rcases pass_cases policy r with ⟨_, hp⟩ | ⟨_, _, hp⟩ | ⟨_, k, hk, hp⟩
  · rw [hp] at h; cases h
  · rw [hp] at h; cases h
  have hlt := headerAt_lt hk.1
  rw [hp] at h ⊢
  rcases candidate_cases { r with rb := r.rb.drop k } (headerAt_drop hk.1) with ⟨_, hc⟩ | ⟨hle, p, _, hc⟩ | ⟨_, _, hc⟩
  · rw [hc] at h; cases h
  · rw [hc]; simp only [List.length_drop, frameTotal] at *; omega
  · rw [hc]; simp only [List.length_drop] at *; omega

/-- The loop to its end is one pass, and the loop to its end from what the pass leaves (R105, R110). -/
theorem run_unfold (policy : NohdrPolicy) (r : Reasm) :
    r.run policy = if (r.pass policy).2 = true then (r.pass policy).1.run policy else (r.pass policy).1 := by
  have stable : ∀ (n m : Nat) (q : Reasm), q.rb.length / 2 + 1 ≤ n → q.rb.length / 2 + 1 ≤ m →
      Reasm.loop policy n q = Reasm.loop policy m q := by
    intro n
    induction n with
    | zero => intro m q hn; omega
    | succ n ih =>
      intro m q hn hm
      cases m with
      | zero => omega
      | succ m =>
        unfold Reasm.loop
        split
        · rename_i hgo
          have := pass_shortens policy q hgo
          exact ih m _ (by omega) (by omega)
        · rfl
  unfold Reasm.run
  rw [Reasm.loop]
  split
  · rename_i hgo
    have := pass_shortens policy r hgo
    exact stable _ _ _ (by omega) (by omega)
  · rfl

end Sys2Proof.Machine
end

