-- ==== Sys2Proof/Tests/Slice0.lean ====
section
/-! SUPPORT. Tests on fixed values: the well-formedness check refuses, the decoder reads words written out from spec/30_encoding.md,
single steps give what spec/95_test_vectors.md gives, and for every statement with hypotheses a state and operands that meet
them. -/

namespace Sys2Proof.Tests

open Sys2Proof.Machine Sys2Proof.Safety

/-- A small build. -/
def small : Params := { chunkMax := 64, decInMax := 300, nohdrPolicy := .discardAll }

/-- The same build with the other policy. -/
def smallKeep : Params := { small with nohdrPolicy := .keepTailAA }

/-- A state of the small build with the given buffer. -/
def holding (rb : Bytes) : State := { State.init small with rb := rb }

/-- A state of the small build with the given events pending. -/
def awaiting (pending : List Event) : State := { State.init small with pending := pending }

/-- The next state, if there is one. -/
def nextOf : Host.Outcome State Fault Refusal → Option State
  | .next s => some s
  | .fault _ => none
  | .refused _ => none

/-- The refusal, if it is one. -/
def refusalOf : Host.Outcome State Fault Refusal → Option Refusal
  | .next _ => none
  | .fault _ => none
  | .refused r => some r

/-! ### The well-formedness check refuses -/

theorem test_wf_decode_too_long : (Instr.decode [1, 2, 3]).wellFormed { small with decInMax := 2 } = false := by decide

theorem test_wf_feed_too_long : (Instr.feed [1, 2, 3]).wellFormed { small with chunkMax := 2 } = false := by decide

theorem test_wf_ping_too_long : (Instr.ping (List.replicate 256 0)).wellFormed small = false := by decide +kernel

theorem test_wf_led_too_long : (Instr.ledControl (List.replicate 256 0)).wellFormed small = false := by decide +kernel

theorem test_wf_estop_too_long : (Instr.emergencyStop (List.replicate 256 0)).wellFormed small = false := by decide +kernel

theorem test_wf_reserved_too_long : (Instr.reservedCmd 0x10 (List.replicate 256 0)).wellFormed small = false := by decide +kernel

theorem test_wf_reserved_is_named : (Instr.reservedCmd 0xFF []).wellFormed small = false := by decide

/-! ### Decoding: words written out from R61 and R79 -/

theorem test_decode_encode : decodeRequest ⟨0b001, 0x02, [0xFF], 3⟩ = .encode 0x02 [0xFF] := by decide

theorem test_decode_decode : decodeRequest ⟨0b010, 0x02, [0xAA], 3⟩ = .decode [0xAA] := by decide

theorem test_decode_feed : decodeRequest ⟨0b011, 0x02, [0xAA, 0x55], 3⟩ = .feed [0xAA, 0x55] := by decide

theorem test_decode_read_status : decodeRequest ⟨0b100, 0x02, [0xAA], 1⟩ = .readStatus 1 := by decide

theorem test_decode_reserved_000 : decodeRequest ⟨0b000, 0, [], 0⟩ = .reservedOp000 := by decide

theorem test_decode_reserved_101 : decodeRequest ⟨0b101, 0, [], 0⟩ = .reservedOp101 := by decide

theorem test_decode_reserved_110 : decodeRequest ⟨0b110, 0, [], 0⟩ = .reservedOp110 := by decide

theorem test_decode_reserved_111 : decodeRequest ⟨0b111, 0, [], 0⟩ = .reservedOp111 := by decide

theorem test_decode_ping_frame : decodeFrame [0xAA, 0x55, 0x01, 0x00, 0xFE] = .ok (.ping [], []) := by decide

theorem test_decode_led_frame : decodeFrame [0xAA, 0x55, 0x02, 0x01, 0x00, 0xFC] = .ok (.ledControl [0x00], []) := by decide

theorem test_decode_estop_frame : decodeFrame [0xAA, 0x55, 0xFF, 0x00, 0x00, 0x11] = .ok (.emergencyStop [], [0x11]) := by
  decide

theorem test_decode_reserved_frame :
    decodeFrame [0xAA, 0x55, 0x03, 0x02, 0xAA, 0x55, 0x01] = .ok (.reservedCmd 0x03 [0xAA, 0x55], []) := by decide

theorem test_decode_rejects_header : decodeFrame [0x55, 0xAA, 0x01, 0x00, 0xFE] = .error .badHeader := by decide

theorem test_table_word_op : decodeTableWord 8 0b100 = some (.readStatus 0) := by decide

theorem test_table_word_cmd : decodeTableWord 8 0xFF = some (.emergencyStop []) := by decide

theorem test_table_word_frame : decodeTableWord 40 0xFE000155AA = some (.ping []) := by decide

/-! ### Single steps: spec/95_test_vectors.md -/

/-- X6. -/
theorem test_encode_X6 : (nextOf (exec (.encode 0x10 [1, 2, 3]) (holding []))).map (·.txs) =
    some [0xAA, 0x55, 0x10, 0x03, 0x01, 0x02, 0x03, 0xEC] := by decide

/-- X11. -/
theorem test_encode_X11 : (nextOf (exec (.encode 0x02 (List.replicate 256 0)) (holding []))).map (fun s => (s.txs, s.results)) =
    some ([], [.encoded (.error .payloadTooLarge)]) := by decide +kernel

/-- Y8: the byte after the frame is ignored. -/
theorem test_decode_Y8 : (nextOf (exec (.decode [0xAA, 0x55, 0x01, 0x00, 0xFE, 0x99]) (holding []))).map (·.results) =
    some [.decoded (.ok ⟨0x01, []⟩)] := by decide

/-- Y3: the length check comes before the header check. -/
theorem test_decode_Y3 : (nextOf (exec (.decode [0, 0, 0, 0]) (holding []))).map (·.results) =
    some [.decoded (.error .incomplete)] := by decide

/-- V10: three frames, the middle one corrupted. -/
theorem test_feed_V10 :
    (nextOf (exec (.feed [0xAA, 0x55, 0x01, 0x00, 0xFE, 0xAA, 0x55, 0x02, 0x01, 0xFF, 0x00, 0xAA, 0x55, 0xFF, 0x00, 0x00])
      (holding []))).map (fun s => (s.pkts, s.rb, s.chkErr, s.rxPkt)) =
    some ([⟨0x01, []⟩, ⟨0xFF, []⟩], [], 1, 2) := by decide

/-- V16-KT: the final 0xAA is kept. -/
theorem test_feed_V16_keep :
    (nextOf (exec (.feed [0x01, 0x02, 0x03, 0x04, 0xAA]) (State.init smallKeep))).map (·.rb) = some [0xAA] := by decide

/-- S4, after V18. -/
theorem test_read_status_S4 : (nextOf (exec (.readStatus 2) (holding [0xAA, 0x55, 0x02]))).map (·.results) =
    some [.status 0x00030002] := by decide

/-- S5, after V9. -/
theorem test_read_status_S5 :
    (nextOf (exec (.readStatus 2) (holding [0xAA, 0x55, 0x00, 0xFF, 0xAA, 0x55, 0x01, 0x00, 0xFE]))).map (·.results) =
    some [.status 0x00090003] := by decide

/-- X1. -/
theorem test_ping_X1 : (nextOf (exec (.ping []) (holding []))).map (·.txs) = some [0xAA, 0x55, 0x01, 0x00, 0xFE] := by decide

/-- X3. -/
theorem test_led_X3 : (nextOf (exec (.ledControl [0x00]) (holding []))).map (·.txs) =
    some [0xAA, 0x55, 0x02, 0x01, 0x00, 0xFC] := by decide

/-- X4. -/
theorem test_estop_X4 : (nextOf (exec (.emergencyStop []) (holding []))).map (·.txs) =
    some [0xAA, 0x55, 0xFF, 0x00, 0x00] := by decide

/-- X12. -/
theorem test_reserved_cmd_X12 : (nextOf (exec (.reservedCmd 0xAA [0x55]) (holding []))).map (·.txs) =
    some [0xAA, 0x55, 0xAA, 0x01, 0x55, 0x01] := by decide

theorem test_reserved_op_101 : refusalOf (step (awaiting [.request (bareRequest 0b101)])) = some .reservedOp := by decide

/-- R-2: RESET clears the counters and leaves the traces. -/
theorem test_reset_R2 : (nextOf (step { awaiting [.reset] with chkErr := 1, rxPkt := 2, pkts := [⟨0x01, []⟩], txs := [0xAA] })).map
    (fun s => (s.chkErr, s.rxPkt, s.pkts, s.txs)) = some (0, 0, [⟨0x01, []⟩], [0xAA]) := by decide

theorem test_idle_step : nextOf (step (holding [0xAA])) = some (holding [0xAA]) := by decide

/-- The word of the FEED row runs as the first instruction after reset. -/
theorem test_reset_runs_feed : step (State.reset.withFetchWord 8 0b011) = exec (.feed []) State.reset := rfl

/-! ### Hypotheses that can be met -/

/-- A PING. -/
abbrev pingFrame : Bytes := [0xAA, 0x55, 0x01, 0x00, 0xFE]

/-- `LED_ON`. -/
abbrev ledFrame : Bytes := [0xAA, 0x55, 0x02, 0x01, 0xFF, 0x03]

theorem noHeader_nil : NoHeader [] := (findHdr_eq_none_iff []).mp rfl

theorem witness_EncodedFrameLayout : (List.replicate 255 (0x00 : Byte)).length ≤ 255 ∧ ([] : Bytes).length ≤ 255 := by decide +kernel

theorem witness_ChecksumOfFrame : (List.replicate 255 (0xAA : Byte)).length ≤ 255 := by decide +kernel

theorem witness_CodecRoundTrip : ([0xFF] : Bytes).length ≤ 255 ∧ (holding []).par.Legal := by decide

theorem witness_Candidate : (holding []).par.Legal ∧ HeaderAt ledFrame 0 ∧ ledFrame[3]? = some 0x01#8 ∧
    5 + (0x01#8).toNat ≤ ledFrame.length := ⟨by decide, ⟨rfl, rfl⟩, rfl, by decide⟩

/-- Both ends of each clause of R92: offsets 1, 2, 3 and 4 + L, bits 0 and 7; LEN grows, LEN shrinks. -/
theorem witness_SingleBit : ([0xFF] : Bytes).length ≤ 255 ∧ (holding []).par.Legal ∧
    (1 < 5 + ([0xFF] : Bytes).length ∧ 1 < 2) ∧ (2 < 5 + ([0xFF] : Bytes).length) ∧ (5 < 5 + ([0xFF] : Bytes).length ∧ 4 ≤ 5) ∧
    (3 < 5 + ([0xFF] : Bytes).length ∧ (7 : Nat) < 8) ∧
    1 < (((buildFrame 0x00 [0xFF]).set 3 ((buildFrame 0x00 [0xFF]).getD 3 0#8 ^^^ (1#8 <<< 7))).getD 3 0#8).toNat ∧
    (((buildFrame 0x00 [0xFF]).set 3 ((buildFrame 0x00 [0xFF]).getD 3 0#8 ^^^ (1#8 <<< 0))).getD 3 0#8).toNat < 1 := by decide

/-- R92's coincidence, and the same flip in `LED_ON`, where it is none. -/
theorem witness_SingleBit_coincidence :
    (buildFrame 0x00 [0xFF]).getD 4 0#8 = xorFold ((buildFrame 0x00 [0xFF]).set 3 0x00 |>.take 4) ∧
    (buildFrame 0x02 [0xFF]).getD 4 0#8 ≠ xorFold ((buildFrame 0x02 [0xFF]).set 3 0x00 |>.take 4) := by decide

/-- R93's example. -/
theorem witness_Undetected : ([0xFF] : Bytes).length ≤ 255 ∧ (holding []).par.Legal ∧
    ([0xAA, 0x55, 0x03, 0x01, 0xFE, 0x03] : Bytes).length = 5 + ([0xFF] : Bytes).length ∧
    ([0xAA, 0x55, 0x03, 0x01, 0xFE, 0x03] : Bytes)[3]? = some (BitVec.ofNat 8 ([0xFF] : Bytes).length) := by decide

theorem witness_CodecKeepsNoState : (nextOf (exec (.encode 0x01 []) (holding [0x11]))).isSome = true ∧
    (nextOf (exec (.decode pingFrame) (holding [0x11]))).isSome = true ∧
    (nextOf (exec (.decode pingFrame) (holding []))).isSome = true := by decide

theorem witness_DecodeOfEncode : (Instr.ledControl [0xFF]).wellFormed small = true ∧
    encodeFrame (.ledControl [0xFF]) = some ledFrame ∧ (Instr.reservedCmd 0xFE (List.replicate 255 0)).wellFormed small = true := by
  decide +kernel

theorem witness_DecodedFrame : decodeFrame (ledFrame ++ pingFrame) = .ok (.ledControl [0xFF], pingFrame) := by decide

theorem witness_StepRuns : (awaiting [.request ⟨0b001, 0x01, [], 0⟩, .reset]).pending = [.request ⟨0b001, 0x01, [], 0⟩, .reset] ∧
    decodeEvent (.request ⟨0b001, 0x01, [], 0⟩) = some (.encode 0x01 []) := by decide

theorem witness_Reset : (awaiting [.reset, .reset]).pending = .reset :: [.reset] := rfl

theorem witness_Idle : (holding [0xAA]).pending = [] := rfl

theorem witness_ReservedOp : (awaiting [.request ⟨0b111, 0xFF, [0x01], 3⟩]).pending = [.request ⟨0b111, 0xFF, [0x01], 3⟩] := rfl

theorem witness_WellFormedComplete : (Instr.feed (List.replicate 64 0)).wellFormed (holding []).par = true ∧
    (Instr.decode (List.replicate 300 0)).wellFormed (holding []).par = true ∧ Instr.feed (List.replicate 64 0) ≠ .reservedOp000 := by
  decide +kernel

/-- For the statements about every step: a `FEED`, a `RESET` and an idle step that answer next. -/
theorem witness_Steps : (nextOf (step (awaiting [.request ⟨0b011, 0, pingFrame, 0⟩]))).isSome = true ∧
    (nextOf (step (awaiting [.reset]))).isSome = true ∧ (nextOf (step (awaiting []))).isSome = true := by decide

/-- For R25's two clauses: a pending request that is no `FEED`, and one that is. -/
theorem witness_Counters : (awaiting [.request ⟨0b100, 0, [], 0⟩]).pending.head? ≠ some .reset ∧
    (0b100#3 ≠ 0b011#3) ∧ (nextOf (step (awaiting [.request ⟨0b100, 0, [], 0⟩]))).isSome = true ∧
    (nextOf (step (awaiting [.request ⟨0b011, 0, pingFrame, 0⟩]))).map (·.rxPkt) = some 1 := by decide

/-- One input for each code of `DECODE` in R140, at the shortest length of its clause. -/
theorem witness_ResultCodes : (∀ b : Bytes, b ∈ [[0xAA, 0x55, 0x01, 0x00], [0xAA, 0x55, 0x01, 0x01, 0xFE], [0xAA, 0x54, 0x01, 0x00, 0xFE],
      [0xAA, 0x55, 0x01, 0x00, 0xFF], pingFrame] → b.length ≤ (holding []).par.decInMax) ∧
    HeaderAt [0xAA, 0x55, 0x01, 0x01, 0xFE] 0 ∧ ¬ HeaderAt [0xAA, 0x54, 0x01, 0x00, 0xFE] 0 ∧ HeaderAt pingFrame 0 :=
  ⟨by decide, ⟨rfl, rfl⟩, by simp [HeaderAt], ⟨rfl, rfl⟩⟩

theorem witness_StatusWord : (holding (List.replicate 259 0)).rb.length < 65536 := by decide +kernel

/-- One buffer for each sync state, the longest HUNT and HEADER ones, all within R112's invariant. -/
theorem witness_SyncState : BufInv [] ∧ syncState [] = .idle ∧ BufInv [0x55, 0x01, 0x00, 0xFE] ∧
    syncState [0x55, 0x01, 0x00, 0xFE] = .hunt ∧ BufInv [0xAA, 0x55, 0x02] ∧ syncState [0xAA, 0x55, 0x02] = .header ∧
    BufInv [0xAA, 0x55, 0x02, 0x01, 0xFF] ∧ syncState [0xAA, 0x55, 0x02, 0x01, 0xFF] = .body :=
  ⟨.inl (by decide), by decide, .inl (by decide), by decide, .inl (by decide), by decide,
    .inr ⟨rfl, rfl, 0x01, rfl, by decide⟩, by decide⟩

/-- For the statements about a `FEED` that runs, at the longest chunk, and for its refusal, one byte longer. -/
theorem witness_Feed : (List.replicate 64 (0x00 : Byte)).length ≤ (holding []).par.chunkMax ∧
    (holding []).par.chunkMax < (List.replicate 65 (0x00 : Byte)).length ∧
    (nextOf (exec (.feed pingFrame) (holding []))).isSome = true := by decide +kernel

/-- For R89's refusal, one byte past the longest input. -/
theorem witness_Decode : (holding []).par.decInMax < (List.replicate 301 (0x00 : Byte)).length ∧
    (List.replicate 300 (0x00 : Byte)).length ≤ (holding []).par.decInMax := by decide +kernel

theorem witness_EveryLoopRun : ([0x55] : Bytes).length ≤ (holding [0xAA]).par.chunkMax ∧
    FeedRun .discardAll 1 ⟨[0xAA] ++ [0x55], 0, 0, []⟩ ⟨[0xAA] ++ [0x55], 0, 0, []⟩ :=
  ⟨by decide, .few _ (by decide)⟩

theorem witness_Capacity : BufInv (holding [0xAA, 0x55, 0x02, 0x01, 0xFF]).rb ∧
    (List.replicate 64 (0x00 : Byte)).length ≤ (holding [0xAA, 0x55, 0x02, 0x01, 0xFF]).par.chunkMax :=
  ⟨.inr ⟨rfl, rfl, 0x01, rfl, by decide⟩, by decide⟩

/-- The longest buffer R112 admits: 259 bytes behind `AA 55 00 FF`. -/
theorem witness_EmptyFeed : BufInv ([0xAA, 0x55, 0x00, 0xFF] ++ List.replicate 255 0x00) :=
  .inr ⟨rfl, rfl, 0xFF, rfl, by decide +kernel⟩

theorem witness_Saturated : (nextOf (exec (.feed pingFrame)
    { holding [] with rxPkt := 0xFFFFFFFF, chkErr := 0xFFFFFFFF })).map (·.rxPkt) = some 0xFFFFFFFF := by decide

/-- V10: the split of the chunk that the statement on accounting is about, the failed candidate's header under its own name. -/
theorem witness_Judged : Judged [] [.frame ⟨0x01, []⟩, .failedHeader, .junk [0x02, 0x01, 0xFF, 0x00], .frame ⟨0xFF, []⟩] := by
  refine ⟨by show decodeResult _ = _; decide, by show decodeResult _ = _; decide, fun j hj => ?_, by show decodeResult _ = _; decide,
    trivial⟩
  have h : FirstHeader [0x02, 0x01, 0xFF, 0x00, 0xAA, 0x55, 0xFF, 0x00, 0x00] 4 := (findHdr_eq_some_iff _ _).mp (by decide)
  exact h.2 j hj

/-- A failed candidate's header is not discarded bytes. -/
theorem test_judged_header_is_no_junk : ¬ Judged [] [.junk [0xAA, 0x55, 0x02, 0x01, 0xFF, 0x00]] :=
  fun h => h.1 0 (by decide) ⟨rfl, rfl⟩

/-- V11's stall. -/
theorem witness_Stall : ([0x55, 0x01, 0x00, 0xFE] : Bytes).length ≤ (holding [0xAA, 0x55, 0xAA]).par.chunkMax ∧
    HeaderAt ((holding [0xAA, 0x55, 0xAA]).rb ++ [0x55, 0x01, 0x00, 0xFE]) 0 ∧
    ((holding [0xAA, 0x55, 0xAA]).rb ++ [0x55, 0x01, 0x00, 0xFE])[3]? = some 0x55#8 ∧
    ((holding [0xAA, 0x55, 0xAA]).rb ++ [0x55, 0x01, 0x00, 0xFE]).length < 5 + (0x55#8).toNat :=
  ⟨by decide, ⟨rfl, rfl⟩, rfl, by decide⟩

/-- Noise that ends in 0xAA. -/
theorem witness_LeadingNoise : (holding []).rb = [] ∧ NoHeader [0x00, 0x11, 0xAA] ∧ ([] : Bytes).length ≤ 255 ∧
    ([0x00, 0x11, 0xAA] ++ buildFrame 0x01 []).length ≤ (holding []).par.chunkMax :=
  ⟨rfl, (findHdr_eq_none_iff _).mp (by decide), by decide, by decide⟩

/-- Two frames, one with `AA 55` in its payload, cut inside a header. -/
theorem witness_ValidStream : (holding []).rb = [] ∧ (∀ p ∈ [Packet.mk 0x03 [0xAA, 0x55], ⟨0x01, []⟩], p.payload.length ≤ 255) ∧
    (∀ c ∈ ([[0xAA, 0x55, 0x03, 0x02, 0xAA, 0x55, 0x01, 0xAA], [0x55, 0x01, 0x00, 0xFE]] : List Bytes),
      c.length ≤ (holding []).par.chunkMax) ∧
    ([[0xAA, 0x55, 0x03, 0x02, 0xAA, 0x55, 0x01, 0xAA], [0x55, 0x01, 0x00, 0xFE]] : List Bytes).flatten =
      [Packet.mk 0x03 [0xAA, 0x55], ⟨0x01, []⟩].flatMap (fun p => buildFrame p.cmd p.payload) := by decide

/-- V10's frames. -/
theorem witness_Corrupt : (holding []).rb = [] ∧ (0x00 : Byte) ≠ xorFold (frameBody 0x02 [0xFF]) ∧
    NoHeader ((frameBody 0x02 [0xFF] ++ [0x00]).drop 2) ∧
    (buildFrame 0x01 [] ++ (frameBody 0x02 [0xFF] ++ [0x00]) ++ buildFrame 0xFF []).length ≤ (holding []).par.chunkMax :=
  ⟨rfl, by decide, (findHdr_eq_none_iff _).mp (by decide), by decide⟩

/-- V6's bytes, cut in two ways. -/
theorem witness_KeepTail : (State.init smallKeep).par.nohdrPolicy = .keepTailAA ∧ BufInv (State.init smallKeep).rb ∧
    (∀ c ∈ ([[0x00, 0x01, 0x02, 0x03, 0xAA], [0x55, 0x01, 0x00, 0xFE]] : List Bytes), c.length ≤ (State.init smallKeep).par.chunkMax) ∧
    ([[0x00, 0x01, 0x02, 0x03, 0xAA], [0x55, 0x01, 0x00, 0xFE]] : List Bytes).flatten =
      ([[0x00, 0x01, 0x02, 0x03, 0xAA, 0x55, 0x01, 0x00, 0xFE]] : List Bytes).flatten :=
  ⟨rfl, .inl (by decide), by decide, by decide⟩

theorem witness_DiscardAll : (holding []).rb = [] ∧ (holding []).par.nohdrPolicy = .discardAll ∧ 9 ≤ (holding []).par.chunkMax := by
  decide

/-- For R123: a buffer of each clause, with the byte that ends the clause's range. -/
theorem witness_ByteSerial : 1 ≤ (holding []).par.chunkMax ∧ BufInv [0xAA, 0x55, 0x02, 0x01, 0xFF] ∧
    decodeResult ([0xAA, 0x55, 0x02, 0x01, 0xFF] ++ [0x03]) = .ok ⟨0x02, [0xFF]⟩ ∧
    decodeResult ([0xAA, 0x55, 0x02, 0x01, 0xFF] ++ [0xA3]) = .error .checksumMismatch ∧
    BufInv [0x00, 0x01, 0x02, 0x03] ∧ syncState [0x00, 0x01, 0x02, 0x03] = .hunt ∧ NoHeader ([0x00, 0x01, 0x02, 0x03] ++ [0xAA]) ∧
    FirstHeader ([0x00, 0xAA, 0x55, 0x03] ++ [0x01]) 1 ∧ FirstHeader ([0x00, 0x01, 0x02, 0xAA] ++ [0x55]) 3 :=
  ⟨by decide, .inr ⟨rfl, rfl, 0x01, rfl, by decide⟩, by decide, by decide, .inl (by decide), by decide,
    (findHdr_eq_none_iff _).mp (by decide), (findHdr_eq_some_iff _ _).mp (by decide), (findHdr_eq_some_iff _ _).mp (by decide)⟩

/-- The invariant holds of a state after a frame was sent and one received, from which a step answers next. -/
theorem witness_EveryStep : Inv { awaiting [.request ⟨0b011, 0, pingFrame, 0⟩] with
      txs := pingFrame, rxs := pingFrame, pkts := [⟨0x01, []⟩], rxPkt := 1,
      results := [.encoded (.ok pingFrame), .fed [⟨0x01, []⟩]] } where
  legal := by decide
  buffer := .inl (by decide)
  txs := rfl
  pkts := rfl
  built := by
    intro f hf
    simp only [List.mem_cons, Response.encoded.injEq, Except.ok.injEq, reduceCtorEq, List.not_mem_nil, or_false] at hf
    exact ⟨0x01, [], by decide, by rw [hf]; decide⟩
  stream := ⟨[.frame ⟨0x01, []⟩], by decide, by decide, by decide⟩

/-- From that state a step answers next. -/
theorem witness_EveryStep_next : (nextOf (step { awaiting [.request ⟨0b011, 0, pingFrame, 0⟩] with
      txs := pingFrame, rxs := pingFrame, pkts := [⟨0x01, []⟩], rxPkt := 1,
      results := [.encoded (.ok pingFrame), .fed [⟨0x01, []⟩]] })).map (·.rxPkt) = some 2 := by decide

/-- A request for each `op` clause of the statements about one operation. -/
theorem witness_Ops : (bareRequest 0b001).op = 0b001 ∧ (bareRequest 0b010).op = 0b010 ∧ (bareRequest 0b011).op = 0b011 ∧
    (bareRequest 0b100).op = 0b100 := by decide

theorem witness_HiddenBuffer : 4 ≤ (holding []).par.chunkMax := by decide

end Sys2Proof.Tests
end

/-! # The state: what a step can do, the counters, the sync state and the status registers (spec/10_state.md) -/

namespace Sys2Proof.Machine

open Sys2Proof.Safety

/-! ### One instruction -/

theorem exec_readStatus (idx : BitVec 2) (s : State) :
    exec (.readStatus idx) s = .next (s.respond (.status (statusRegister s idx))) := rfl

theorem exec_feed (chunk : Bytes) (s : State) : exec (.feed chunk) s = execFeed chunk s := rfl

/-- What `DECODE` can do to the state. -/
theorem exec_decode_cases (buf : Bytes) (s : State) :
    (s.par.decInMax < buf.length ∧ exec (.decode buf) s = .refused .oversizeDecodeInput) ∨
    (buf.length ≤ s.par.decInMax ∧ exec (.decode buf) s = .next (s.respond (.decoded (decodePacket buf)))) := by
  have hexec : exec (.decode buf) s = if longerThan buf s.par.decInMax = true then .refused .oversizeDecodeInput
      else .next (s.respond (.decoded (decodePacket buf))) := rfl
  rw [hexec]
  by_cases h : s.par.decInMax < buf.length
  · exact .inl ⟨h, if_pos ((longerThan_iff _ _).mpr h)⟩
  · exact .inr ⟨by omega, if_neg fun hl => h ((longerThan_iff _ _).mp hl)⟩

/-- A `FEED` that answers a next state leaves what its loop leaves. -/
theorem exec_feed_next {chunk : Bytes} {s t : State} (h : exec (.feed chunk) s = .next t) :
    chunk.length ≤ s.par.chunkMax ∧ t = feedEffect chunk (s.reasm.feed s.par.nohdrPolicy chunk) s := by
  rw [exec_feed] at h
  rcases execFeed_cases chunk s with ⟨_, hf⟩ | ⟨hle, hf⟩ <;> rw [hf] at h
  · cases h
  · cases h
    exact ⟨hle, rfl⟩

/-- What an instruction that answers a next state has done: sent a frame, or returned a result and nothing else, or fed a
chunk. -/
theorem exec_next_cases {i : Instr} {s t : State} (h : exec i s = .next t) :
    (∃ cmd payload, (i = .encode cmd payload ∨ encodeFrame i = some (buildFrame cmd payload)) ∧
      t = sendFrame cmd payload s) ∨
    (∃ buf, i = .decode buf ∧ buf.length ≤ s.par.decInMax ∧ t = s.respond (.decoded (decodePacket buf))) ∨
    (∃ idx, i = .readStatus idx ∧ t = s.respond (.status (statusRegister s idx))) ∨
    (∃ chunk, i = .feed chunk ∧ chunk.length ≤ s.par.chunkMax ∧
      t = feedEffect chunk (s.reasm.feed s.par.nohdrPolicy chunk) s) := by
  cases i with
  | encode cmd payload => cases h; exact .inl ⟨cmd, payload, .inl rfl, rfl⟩
  | ping payload => cases h; exact .inl ⟨0x01#8, payload, .inr rfl, rfl⟩
  | ledControl payload => cases h; exact .inl ⟨0x02#8, payload, .inr rfl, rfl⟩
  | emergencyStop payload => cases h; exact .inl ⟨0xFF#8, payload, .inr rfl, rfl⟩
  | reservedCmd cmd payload => cases h; exact .inl ⟨cmd, payload, .inr rfl, rfl⟩
  | decode buf =>
    rcases exec_decode_cases buf s with ⟨_, hd⟩ | ⟨hle, hd⟩ <;> rw [hd] at h
    · cases h
    · cases h
      exact .inr (.inl ⟨buf, rfl, hle, rfl⟩)
  | readStatus idx => cases h; exact .inr (.inr (.inl ⟨idx, rfl, rfl⟩))
  | feed chunk => exact .inr (.inr (.inr ⟨chunk, rfl, exec_feed_next h⟩))
  | reservedOp000 => cases h
  | reservedOp101 => cases h
  | reservedOp110 => cases h
  | reservedOp111 => cases h

/-! ### One step -/

/-- What a step that answers a next state has done: nothing, a `RESET`, or the instruction the oldest event carries. -/
theorem step_next_cases {s t : State} (h : step s = .next t) :
    (s.pending = [] ∧ t = s) ∨
    (∃ rest, s.pending = .reset :: rest ∧ t = State.takeReset { s with pending := rest }) ∨
    (∃ e rest i, s.pending = e :: rest ∧ decodeEvent e = some i ∧ exec i { s with pending := rest } = .next t) := by
  unfold step at h
  cases hp : s.pending with
  | nil =>
    rw [hp] at h
    cases h
    exact .inl ⟨rfl, rfl⟩
  | cons e rest =>
    rw [hp] at h
    cases e with
    | request r => exact .inr (.inr ⟨_, rest, _, rfl, rfl, h⟩)
    | frame cmd payload => exact .inr (.inr ⟨_, rest, _, rfl, rfl, h⟩)
    | reset =>
      cases h
      exact .inr (.inl ⟨rest, rfl, rfl⟩)

/-- No command frame is a `FEED`. -/
theorem decodeCommand_ne_feed (cmd : Byte) (payload chunk : Bytes) : decodeCommand cmd payload ≠ .feed chunk := by
  unfold decodeCommand
  split <;> exact fun h => nomatch h

/-- Only the request with `op` 011 carries a `FEED` (R79). -/
theorem decodeEvent_eq_feed {e : Event} {chunk : Bytes} (h : decodeEvent e = some (.feed chunk)) :
    ∃ r, e = .request r ∧ r.op = 0b011#3 := by
  cases e with
  | request r =>
    refine ⟨r, rfl, BitVec.eq_of_toNat_eq ?_⟩
    have hr : decodeRequest r = .feed chunk := Option.some.inj h
    unfold decodeRequest at hr
    split at hr
    case h_4 hop => exact hop
    all_goals cases hr
  | frame cmd payload => exact absurd (Option.some.inj h) (decodeCommand_ne_feed cmd payload chunk)
  | reset => cases h

/-! ### What sending a frame writes (R87, R88) -/

section sendFrame

variable (cmd : Byte) (payload : Bytes) (s : State)

/-- Sending a frame writes TXS and the list of results, and nothing else. -/
theorem sendFrame_writes : sendFrame cmd payload s =
    { s with txs := (sendFrame cmd payload s).txs, results := (sendFrame cmd payload s).results } := by
  rcases sendFrame_cases cmd payload s with ⟨_, h⟩ | ⟨_, h⟩ <;> rw [h] <;> rfl

@[simp] theorem sendFrame_rb : (sendFrame cmd payload s).rb = s.rb := by rw [sendFrame_writes]
@[simp] theorem sendFrame_chkErr : (sendFrame cmd payload s).chkErr = s.chkErr := by rw [sendFrame_writes]
@[simp] theorem sendFrame_rxPkt : (sendFrame cmd payload s).rxPkt = s.rxPkt := by rw [sendFrame_writes]
@[simp] theorem sendFrame_pkts : (sendFrame cmd payload s).pkts = s.pkts := by rw [sendFrame_writes]
@[simp] theorem sendFrame_rxs : (sendFrame cmd payload s).rxs = s.rxs := by rw [sendFrame_writes]
@[simp] theorem sendFrame_par : (sendFrame cmd payload s).par = s.par := by rw [sendFrame_writes]
@[simp] theorem sendFrame_pending : (sendFrame cmd payload s).pending = s.pending := by rw [sendFrame_writes]

/-- Sending a frame only appends to TXS. -/
theorem sendFrame_txs_grow : s.txs <+: (sendFrame cmd payload s).txs := by
  rcases sendFrame_cases cmd payload s with ⟨_, h⟩ | ⟨_, h⟩ <;> simp [h]

/-- Sending a frame only appends to the list of results. -/
theorem sendFrame_results_grow : s.results <+: (sendFrame cmd payload s).results := by
  rcases sendFrame_cases cmd payload s with ⟨_, h⟩ | ⟨_, h⟩ <;> simp [h]

end sendFrame

/-! ### The traces and the parameters -/

/-- The four records of `s` are the beginnings of those of `t` (R26). -/
def TracesGrow (s t : State) : Prop :=
  s.txs <+: t.txs ∧ s.pkts <+: t.pkts ∧ s.rxs <+: t.rxs ∧ s.results <+: t.results

theorem sendFrame_tracesGrow (cmd : Byte) (payload : Bytes) (s : State) : TracesGrow s (sendFrame cmd payload s) :=
  ⟨sendFrame_txs_grow cmd payload s, by simp, by simp, sendFrame_results_grow cmd payload s⟩

theorem respond_tracesGrow (s : State) (r : Response) : TracesGrow s (s.respond r) :=
  ⟨List.prefix_rfl, List.prefix_rfl, List.prefix_rfl, List.prefix_append _ _⟩

theorem feedEffect_tracesGrow (chunk : Bytes) (r : Reasm) (s : State) : TracesGrow s (feedEffect chunk r s) :=
  ⟨List.prefix_rfl, List.prefix_append _ _, List.prefix_append _ _, List.prefix_append _ _⟩

theorem exec_tracesGrow {i : Instr} {s t : State} (h : exec i s = .next t) : TracesGrow s t := by
  obtain ⟨cmd, payload, _, rfl⟩ | ⟨buf, _, _, rfl⟩ | ⟨idx, _, rfl⟩ | ⟨chunk, _, _, rfl⟩ := exec_next_cases h
  · exact sendFrame_tracesGrow cmd payload s
  · exact respond_tracesGrow s _
  · exact respond_tracesGrow s _
  · exact feedEffect_tracesGrow chunk _ s

theorem exec_keeps_par {i : Instr} {s t : State} (h : exec i s = .next t) : t.par = s.par := by
  obtain ⟨cmd, payload, _, rfl⟩ | ⟨buf, _, _, rfl⟩ | ⟨idx, _, rfl⟩ | ⟨chunk, _, _, rfl⟩ := exec_next_cases h
  · exact sendFrame_par cmd payload s
  · rfl
  · rfl
  · rfl

/-! ### The counters -/

theorem le_satInc (c : Word) : c.toNat ≤ (satInc c).toNat := by
  have := c.isLt
  rw [satInc_toNat]
  omega

/-- Neither counter of `q` is greater than that of `r`. -/
def Reasm.CountersLe (q r : Reasm) : Prop := q.chkErr.toNat ≤ r.chkErr.toNat ∧ q.rxPkt.toNat ≤ r.rxPkt.toNat

theorem Reasm.CountersLe.refl (r : Reasm) : r.CountersLe r := ⟨le_rfl, le_rfl⟩

theorem Reasm.CountersLe.trans {q r u : Reasm} (h : q.CountersLe r) (h' : r.CountersLe u) : q.CountersLe u :=
  ⟨h.1.trans h'.1, h.2.trans h'.2⟩

theorem pass_countersLe (policy : NohdrPolicy) (r : Reasm) : r.CountersLe (r.pass policy).1 := by
  rcases pass_cases policy r with ⟨_, hp⟩ | ⟨_, _, hp⟩ | ⟨_, k, hk, hp⟩ <;> rw [hp]
  · exact .refl r
  · exact .refl r
  · rcases candidate_cases { r with rb := r.rb.drop k } (headerAt_drop hk.1) with ⟨_, hc⟩ | ⟨_, _, _, hc⟩ | ⟨_, _, hc⟩ <;> rw [hc]
    · exact .refl r
    · exact ⟨le_rfl, le_satInc r.rxPkt⟩
    · exact ⟨le_satInc r.chkErr, le_rfl⟩

theorem loop_countersLe (policy : NohdrPolicy) (n : Nat) (r : Reasm) : r.CountersLe (Reasm.loop policy n r) := by
  induction n generalizing r with
  | zero => exact .refl r
  | succ n ih =>
    unfold Reasm.loop
    split
    · exact (pass_countersLe policy r).trans (ih _)
    · exact pass_countersLe policy r

/-- No `FEED` lowers a counter (R25). -/
theorem exec_feed_counters_le {chunk : Bytes} {s t : State} (h : exec (.feed chunk) s = .next t) :
    s.chkErr.toNat ≤ t.chkErr.toNat ∧ s.rxPkt.toNat ≤ t.rxPkt.toNat := by
  obtain ⟨_, rfl⟩ := exec_feed_next h
  exact loop_countersLe s.par.nohdrPolicy _ { s.reasm with rb := bufAppend s.rb chunk }

/-- An instruction that is no `FEED` writes neither a counter nor RB (R20, R22, R23). -/
theorem exec_keeps_counters_rb {i : Instr} {s t : State} (h : exec i s = .next t) (hi : ∀ chunk, i ≠ .feed chunk) :
    t.chkErr = s.chkErr ∧ t.rxPkt = s.rxPkt ∧ t.rb = s.rb := by
  obtain ⟨cmd, payload, _, rfl⟩ | ⟨buf, _, _, rfl⟩ | ⟨idx, _, rfl⟩ | ⟨chunk, hf, _, _⟩ := exec_next_cases h
  · simp
  · exact ⟨rfl, rfl, rfl⟩
  · exact ⟨rfl, rfl, rfl⟩
  · exact absurd hf (hi chunk)

/-- No instruction lowers a counter (R25). -/
theorem exec_counters_le {i : Instr} {s t : State} (h : exec i s = .next t) :
    s.chkErr.toNat ≤ t.chkErr.toNat ∧ s.rxPkt.toNat ≤ t.rxPkt.toNat := by
  by_cases hi : ∃ chunk, i = .feed chunk
  · obtain ⟨chunk, rfl⟩ := hi
    exact exec_feed_counters_le h
  · obtain ⟨hc, hx, _⟩ := exec_keeps_counters_rb h (fun chunk hf => hi ⟨chunk, hf⟩)
    rw [hc, hx]
    exact ⟨le_rfl, le_rfl⟩

/-- Nothing is greater than the greatest word. -/
theorem eq_max_of_le {c d : Word} (h : c.toNat ≤ d.toNat) (hc : c = 0xFFFFFFFF#32) : d = 0xFFFFFFFF#32 := by
  subst hc
  bv_omega

/-! ### The sync state (R29) -/

/-- What each sync state says of the buffer. -/
theorem syncState_cases (rb : Bytes) :
    (syncState rb = .idle ∧ rb = []) ∨
    (syncState rb = .header ∧ (rb.length = 2 ∨ rb.length = 3) ∧ HeaderAt rb 0) ∨
    (syncState rb = .body ∧ 4 ≤ rb.length ∧ HeaderAt rb 0) ∨
    (syncState rb = .hunt ∧ rb ≠ [] ∧ ¬ HeaderAt rb 0) := by
  unfold syncState
  by_cases h0 : rb.length = 0
  · exact .inl ⟨if_pos h0, List.length_eq_zero_iff.mp h0⟩
  rw [if_neg h0]
  by_cases hh : hasHeader rb = true
  · have hat := (hasHeader_iff rb).mp hh
    have hlt := headerAt_lt hat
    by_cases h3 : rb.length = 2 ∨ rb.length = 3
    · exact .inr (.inl ⟨if_pos ⟨h3, hh⟩, h3, hat⟩)
    · have h4 : 4 ≤ rb.length := by omega
      exact .inr (.inr (.inl ⟨by rw [if_neg (fun h => h3 h.1), if_pos ⟨h4, hh⟩], h4, hat⟩))
  · exact .inr (.inr (.inr ⟨by rw [if_neg (fun h => hh h.2), if_neg (fun h => hh h.2)],
      fun he => h0 (List.length_eq_zero_iff.mpr he), fun hat => hh ((hasHeader_iff rb).mpr hat)⟩))

/-- The stored code of the sync state is the number of R29. -/
theorem syncState_code_toNat (rb : Bytes) : (syncState rb).code.toNat = syncCode rb := by
  unfold syncCode
  obtain ⟨hs, rfl⟩ | ⟨hs, hlen, hh⟩ | ⟨hs, hlen, hh⟩ | ⟨hs, hne, hh⟩ := syncState_cases rb <;> rw [hs]
  · rfl
  · rw [if_neg (by omega), if_pos ⟨hlen, hh⟩]; rfl
  · rw [if_neg (by omega), if_neg (by omega), if_pos ⟨hlen, hh⟩]; rfl
  · rw [if_neg (fun h => hne (List.length_eq_zero_iff.mp h)), if_neg (fun h => hh h.2), if_neg (fun h => hh h.2)]; rfl

theorem syncCode_lt (rb : Bytes) : syncCode rb < 4 := by
  rw [← syncState_code_toNat]
  cases syncState rb <;> decide

/-! ### The buffer invariant (R112) -/

/-- Within the invariant a buffer with no header at its front is short. -/
theorem length_le_of_bufInv_of_not_headerAt {rb : Bytes} (h : BufInv rb) (hh : ¬ HeaderAt rb 0) : rb.length ≤ 4 := by
  obtain hle | ⟨h0, h1, _⟩ := h
  · exact hle
  · exact absurd ⟨h0, h1⟩ hh

/-- Within the invariant a buffered LEN byte declares a frame that is not complete: 4 bytes are fewer than any frame has. -/
theorem incomplete_of_bufInv {rb : Bytes} (h : BufInv rb) (h4 : 4 ≤ rb.length) :
    ∃ len, rb[3]? = some len ∧ rb.length < 5 + len.toNat := by
  obtain hle | ⟨_, _, hlen⟩ := h
  · exact ⟨rb[3], List.getElem?_eq_getElem h4, by omega⟩
  · exact hlen

/-! ### The status registers (R30, R131) -/

/-- STATUS is RB_LEN times 2^16 plus SYNC_STATE, for every buffer the 16-bit field can hold. -/
theorem statusWord_toNat (rb : Bytes) (h : rb.length < 65536) :
    (statusWord rb).toNat = rb.length * 2 ^ 16 + syncCode rb := by
  have hc := syncCode_lt rb
  have hlen : (BitVec.ofNat 32 rb.length <<< 16).toNat = rb.length <<< 16 := by
    rw [BitVec.toNat_shiftLeft, BitVec.toNat_ofNat, Nat.shiftLeft_eq, Nat.shiftLeft_eq]
    omega
  rw [statusWord, BitVec.toNat_or, hlen, syncState_code_toNat, ← Nat.shiftLeft_add_eq_or_of_lt (by omega), Nat.shiftLeft_eq]

/-- The registers read 0 in a state as after reset. -/
theorem statusRegister_init (par : Params) (idx : BitVec 2) : statusRegister (State.init par) idx = 0x00000000#32 := by
  unfold statusRegister
  split
  case h_3 => exact (by decide : statusWord [] = 0x00000000#32)
  all_goals rfl

/-- The registers read the counters and the STATUS word, and nothing else of the state. -/
theorem statusRegister_congr {s t : State} (hc : s.chkErr = t.chkErr) (hx : s.rxPkt = t.rxPkt)
    (hw : statusWord s.rb = statusWord t.rb) (idx : BitVec 2) : statusRegister s idx = statusRegister t idx := by
  unfold statusRegister
  rw [hc, hx, hw]

/-! ### Reset -/

theorem built_legal : Config.built.Legal := by
  have := Nat.mod_lt Config.chunkMaxSeed (by decide : 65276 > 0)
  refine ⟨?_, ?_, ?_⟩ <;> simp only [Config.built] <;> omega

/-- The empty records and the empty buffer of a legal build meet the invariant. -/
theorem init_inv {par : Params} (h : par.Legal) : Inv (State.init par) where
  legal := h
  buffer := .inl (Nat.zero_le 4)
  txs := rfl
  pkts := rfl
  built := fun _ hf => nomatch hf
  stream := ⟨[], rfl, rfl, fun _ hg => nomatch hg⟩

/-! ### What two alike states do with one chunk (R32) -/

/-- A `FEED` within the limit appends to PKTS what its loop emits. -/
theorem exec_feed_pkts {chunk : Bytes} {s : State} (h : chunk.length ≤ s.par.chunkMax) :
    ∃ t, exec (.feed chunk) s = .next t ∧ t.pkts = s.pkts ++ (s.reasm.feed s.par.nohdrPolicy chunk).out := by
  rcases execFeed_cases chunk s with ⟨hlt, _⟩ | ⟨_, hf⟩
  · omega
  · exact ⟨_, (exec_feed chunk s).trans hf, rfl⟩

/-- The bytes of a frame, read back from the front of a buffer: its header, its total and itself (R61, R76). -/
theorem frame_at_front (cmd : Byte) (payload rest : Bytes) (hp : payload.length ≤ 255) :
    HeaderAt (buildFrame cmd payload ++ rest) 0 ∧
    frameTotal (buildFrame cmd payload ++ rest) = (buildFrame cmd payload).length ∧
    slice (buildFrame cmd payload ++ rest) 0 (buildFrame cmd payload).length = buildFrame cmd payload := by
  refine ⟨by simp [HeaderAt, buildFrame, frameBody, Config.hdr0, Config.hdr1], ?_, ?_⟩
  · have hL : lenField (buildFrame cmd payload ++ rest) = payload.length := by
      simp [lenField, buildFrame, frameBody, byteAt]; omega
    rw [frameTotal, hL, buildFrame_length]; omega
  · rw [slice, List.drop_zero, Nat.sub_zero, List.take_left]

/-- A pass over a buffer that starts with a valid frame emits its packet and consumes exactly the frame (R105, R108). -/
theorem pass_of_frame (policy : NohdrPolicy) (r : Reasm) (cmd : Byte) (payload rest : Bytes) (hp : payload.length ≤ 255) :
    Reasm.pass policy { r with rb := buildFrame cmd payload ++ rest } =
      ({ r with rb := rest, rxPkt := satInc r.rxPkt, out := r.out ++ [⟨cmd, payload⟩] }, true) := by
  obtain ⟨hh, htot, hslice⟩ := frame_at_front cmd payload rest hp
  have hdec : decodePacket (buildFrame cmd payload) = .ok ⟨cmd, payload⟩ := by
    simpa using decodePacket_buildFrame cmd payload [] hp
  have hlen : (buildFrame cmd payload ++ rest).length = 5 + payload.length + rest.length := by simp
  rcases pass_cases policy { r with rb := buildFrame cmd payload ++ rest } with ⟨hlt, _⟩ | ⟨_, hno, _⟩ | ⟨_, k, hk, hpass⟩
  · simp only at hlt; omega
  · exact absurd hh (hno 0)
  have hk0 : k = 0 := Nat.eq_zero_of_not_pos fun hpos => hk.2 0 hpos hh
  subst hk0
  rw [hpass]
  rcases candidate_cases { r with rb := buildFrame cmd payload ++ rest } hh with ⟨hlt, _⟩ | ⟨_, p, hok, hc⟩ | ⟨_, hbad, _⟩
  · simp only [htot, buildFrame_length] at hlt; omega
  · simp only [htot, hslice, hdec] at hok
    cases hok
    simp only [htot, List.drop_left] at hc
    exact hc
  · simp only [htot, hslice, hdec] at hbad
    cases hbad

/-- With fewer than 5 bytes the loop stops at once (step 1 of R105). -/
theorem run_of_few (policy : NohdrPolicy) (r : Reasm) (h : r.rb.length < 5) : r.run policy = r := by
  have hpass : r.pass policy = (r, false) := if_pos h
  rw [run_unfold, hpass]
  rfl

/-- Without a header the loop emits nothing (step 2 of R105). -/
theorem run_out_of_noHeader (policy : NohdrPolicy) (r : Reasm) (h : NoHeader r.rb) : (r.run policy).out = r.out := by
  rw [run_unfold]
  rcases pass_cases policy r with ⟨_, hp⟩ | ⟨_, _, hp⟩ | ⟨_, k, hk, _⟩
  · rw [hp]; rfl
  · rw [hp]; rfl
  · exact absurd hk.1 (h k)

/-- Behind a buffered `AA`, `55 01 00 FE` completes a PING. -/
theorem feed_out_of_buffered_AA (policy : NohdrPolicy) (c x : Word) :
    (Reasm.feed policy ⟨[0xAA], c, x, []⟩ [0x55, 0x01, 0x00, 0xFE]).out = [⟨0x01, []⟩] := by
  have hbuf : bufAppend [0xAA] [0x55, 0x01, 0x00, 0xFE] = buildFrame 0x01 [] ++ [] := by decide
  rw [Reasm.feed, hbuf, run_unfold, pass_of_frame policy ⟨[0xAA], c, x, []⟩ 0x01 [] [] (Nat.zero_le _)]
  exact congrArg Reasm.out (run_of_few policy ⟨[], c, satInc x, [⟨0x01, []⟩]⟩ (Nat.succ_pos 4))

/-- Behind a buffered `00`, the same bytes hold no header. -/
theorem feed_out_of_buffered_00 (policy : NohdrPolicy) (c x : Word) :
    (Reasm.feed policy ⟨[0x00], c, x, []⟩ [0x55, 0x01, 0x00, 0xFE]).out = [] :=
  have hno : NoHeader [0x00, 0x55, 0x01, 0x00, 0xFE] := (findHdr_eq_none_iff _).mp (by decide)
  run_out_of_noHeader policy ⟨[0x00, 0x55, 0x01, 0x00, 0xFE], c, x, []⟩ hno

end Sys2Proof.Machine

namespace Sys2Proof.Proofs

open Sys2Proof.Machine Sys2Proof.Safety

/-- Settles O25: an instruction appends to the records, a `RESET` and an idle step leave them. -/
theorem tracesOnlyGrow : Obligations.TracesOnlyGrow := by
  intro s t h
  obtain ⟨_, rfl⟩ | ⟨rest, _, rfl⟩ | ⟨e, rest, i, _, _, hi⟩ := step_next_cases h
  · exact ⟨List.prefix_rfl, List.prefix_rfl, List.prefix_rfl, List.prefix_rfl⟩
  · exact ⟨List.prefix_rfl, List.prefix_rfl, List.prefix_rfl, List.prefix_rfl⟩
  · have hgrow := exec_tracesGrow hi
    exact hgrow

/-- Settles O26: every pass of the loop of R105 keeps or counts up, and only a request with `op` 011 runs the loop. -/
theorem onlyResetLowersCounters : Obligations.OnlyResetLowersCounters := by
  intro s t h
  obtain ⟨_, rfl⟩ | ⟨rest, hp, _⟩ | ⟨e, rest, i, hp, hd, hi⟩ := step_next_cases h
  · exact ⟨fun _ => ⟨le_rfl, le_rfl⟩, fun _ _ => ⟨rfl, rfl, rfl⟩⟩
  · have hreset : s.pending.head? = some .reset := by rw [hp]; rfl
    exact ⟨fun hne => absurd hreset hne, fun hne => absurd hreset hne⟩
  · have hle := exec_counters_le hi
    have hkeep := exec_keeps_counters_rb hi
    refine ⟨fun _ => hle, fun _ hop => hkeep ?_⟩
    rintro chunk rfl
    obtain ⟨r, rfl, hr⟩ := decodeEvent_eq_feed hd
    exact hop r (by rw [hp]; rfl) hr

/-- Settles O29: the fields are the quotients and remainders of RB_LEN times 2^16 plus SYNC_STATE. -/
theorem statusWordFields : Obligations.StatusWordFields := by
  intro s hlen
  have hw := statusWord_toNat s.rb hlen
  have hc := syncCode_lt s.rb
  refine ⟨_, statusWord s.rb, exec_readStatus 2 s, rfl, ?_, BitVec.eq_of_toNat_eq ?_, ?_⟩ <;>
    rw [BitVec.extractLsb_toNat, hw, Nat.shiftRight_eq_div_pow]
  · omega
  · rw [BitVec.toNat_ofNat]; omega
  · omega

/-- Settles O30: R112 bounds a buffer without a header by 4 bytes and one with a header and a LEN byte by its frame. -/
theorem syncStateMeanings : Obligations.SyncStateMeanings := by
  intro s hinv
  obtain ⟨hs, hrb⟩ | ⟨hs, hlen, hh⟩ | ⟨hs, hlen, hh⟩ | ⟨hs, hrb, hh⟩ := syncState_cases s.rb <;> rw [hs]
  · simp [hrb]
  · have hne : s.rb ≠ [] := List.ne_nil_of_length_pos (by omega)
    have hnone : s.rb[3]? = none := List.getElem?_eq_none (by omega)
    simp [hne, hh, hnone]
  · have hne : s.rb ≠ [] := List.ne_nil_of_length_pos (by omega)
    simp [hne, hh, incomplete_of_bufInv hinv hlen]
  · simp [hrb, hh, length_le_of_bufInv_of_not_headerAt hinv hh]

/-- Settles O41: no `FEED` lowers a counter, and a saturated one has nowhere higher to go. -/
theorem saturatedCountersStay : Obligations.SaturatedCountersStay := by
  intro chunk s t h
  obtain ⟨hc, hx⟩ := exec_feed_counters_le h
  exact ⟨eq_max_of_le hx, eq_max_of_le hc⟩

/-- Settles O23: the registers of a state as after reset read 0. -/
theorem resetStateValues : Obligations.ResetStateValues := by
  refine ⟨rfl, rfl, rfl, rfl, fun idx => ⟨_, exec_readStatus idx State.reset, ?_⟩⟩
  rw [State.respond_results, State.reset, statusRegister_init]

/-- Settles O24: no instruction writes the parameters, and neither does `RESET`. -/
theorem stepKeepsParameters : Obligations.StepKeepsParameters := by
  intro s t h
  obtain ⟨_, rfl⟩ | ⟨rest, _, rfl⟩ | ⟨e, rest, i, _, _, hi⟩ := step_next_cases h
  · rfl
  · rfl
  · have hpar := exec_keeps_par hi
    exact hpar

/-- Settles O49: `AA` and `00` are both one byte in HUNT, and only the first is half a header. -/
theorem hiddenBufferMatters : Obligations.HiddenBufferMatters := by
  intro s hmax
  have hword : statusWord [0xAA] = statusWord [0x00] := by decide
  obtain ⟨t, ht, htp⟩ := exec_feed_pkts (chunk := [0x55, 0x01, 0x00, 0xFE]) (s := { s with rb := [0xAA] }) hmax
  obtain ⟨u, hu, hup⟩ := exec_feed_pkts (chunk := [0x55, 0x01, 0x00, 0xFE]) (s := { s with rb := [0x00] }) hmax
  refine ⟨statusRegister_congr rfl rfl hword, t, u, ht, hu, ?_, ?_⟩
  · exact htp.trans (congrArg (s.pkts ++ ·) (feed_out_of_buffered_AA s.par.nohdrPolicy s.chkErr s.rxPkt))
  · rw [hup]
    exact (congrArg (s.pkts ++ ·) (feed_out_of_buffered_00 s.par.nohdrPolicy s.chkErr s.rxPkt)).trans (List.append_nil _)

/-- Settles O52: the parameters of the build are within bounds, and there is nothing else to account for. -/
theorem resetHasTheInvariant : Obligations.ResetHasTheInvariant := init_inv built_legal

end Sys2Proof.Proofs

/-! # Order and interference of the operations: the event queue, status reads, transmit against receive (spec/20_memory.md) -/

namespace Sys2Proof.Machine

open Sys2Proof.Safety

/-! ### What one operation answers, whatever the state -/

theorem exec_encode (cmd : Byte) (payload : Bytes) (s : State) :
    exec (.encode cmd payload) s = .next (sendFrame cmd payload s) := rfl

/-- A `FEED` within the limit leaves what its loop leaves. -/
theorem exec_feed_of_le {chunk : Bytes} {s : State} (h : chunk.length ≤ s.par.chunkMax) :
    exec (.feed chunk) s = .next (feedEffect chunk (s.reasm.feed s.par.nohdrPolicy chunk) s) := by
  rcases execFeed_cases chunk s with ⟨hlt, _⟩ | ⟨_, hf⟩
  · exact absurd h (Nat.not_le_of_lt hlt)
  · exact (exec_feed chunk s).trans hf

/-- A `DECODE` answers a next state exactly within its limit, and then it returns its verdict and changes nothing else. -/
theorem exec_decode_next_iff {buf : Bytes} {s t : State} : exec (.decode buf) s = .next t ↔
    buf.length ≤ s.par.decInMax ∧ t = s.respond (.decoded (decodePacket buf)) := by
  rcases exec_decode_cases buf s with ⟨hlt, hd⟩ | ⟨hle, hd⟩ <;> rw [hd]
  · exact ⟨(fun h => nomatch h), fun h => absurd h.1 (Nat.not_le_of_lt hlt)⟩
  · rw [Host.Outcome.next.injEq, and_iff_right hle, eq_comm]

/-- The bytes and the result of sending a frame depend on the command and the payload alone (R87). -/
theorem sendFrame_uniform (cmd : Byte) (payload : Bytes) :
    ∃ frame a, ∀ s, sendFrame cmd payload s = (s.txAppend frame).respond a := by
  by_cases h : payload.length ≤ 255
  · refine ⟨buildFrame cmd payload, .encoded (.ok (buildFrame cmd payload)), fun s => ?_⟩
    rcases sendFrame_cases cmd payload s with ⟨hlt, _⟩ | ⟨_, hs⟩
    · omega
    · exact hs
  · refine ⟨[], .encoded (.error .payloadTooLarge), fun s => ?_⟩
    rcases sendFrame_cases cmd payload s with ⟨_, hs⟩ | ⟨hle, _⟩
    · rw [hs, State.txAppend, List.append_nil]
    · omega

/-- No status register reads the list of results. -/
@[simp] theorem statusRegister_respond (s : State) (r : Response) (idx : BitVec 2) :
    statusRegister (s.respond r) idx = statusRegister s idx :=
  statusRegister_congr rfl rfl rfl idx

end Sys2Proof.Machine

namespace Sys2Proof.Proofs

open Sys2Proof.Machine Sys2Proof.Safety

/-- Settles O42: `FEED` starts from registers that `ENCODE` does not write, and `ENCODE` sends the same frame from every state. -/
theorem transmitAndReceiveCommute : Obligations.TransmitAndReceiveCommute := by
  intro cmd payload chunk s hle
  obtain ⟨frame, a, hsend⟩ := sendFrame_uniform cmd payload
  have hencode : ∀ s, exec (.encode cmd payload) s = .next ((s.txAppend frame).respond a) := fun s =>
    (exec_encode cmd payload s).trans (congrArg _ (hsend s))
  have hafter := exec_feed_of_le (s := (s.txAppend frame).respond a) hle
  refine ⟨_, _, _, _, a, .fed (s.reasm.feed s.par.nohdrPolicy chunk).out, hencode s, hafter, exec_feed_of_le hle, hencode _,
    List.append_assoc _ [a] [_], ?_, ?_⟩
  · rw [← List.singleton_append, ← List.append_assoc]
    rfl
  · intro buf v hv
    obtain ⟨hbuf, rfl⟩ := exec_decode_next_iff.mp hv
    exact ⟨_, _, rfl, exec_decode_next_iff.mpr ⟨hbuf, rfl⟩, rfl⟩

/-- Settles O17: the step takes the head of the queue. -/
theorem stepRunsDecodedInstruction : Obligations.StepRunsDecodedInstruction := by
  intro s e rest i hpending hdecode
  simp only [step, hpending, hdecode]

/-- Settles O31: the first read changes only the list of results, which no register reads. -/
theorem readStatusIsIdempotent : Obligations.ReadStatusIsIdempotent := by
  intro idx s
  refine ⟨statusRegister s idx, _, _, exec_readStatus idx s, exec_readStatus idx _, rfl, ?_⟩
  rw [statusRegister_respond, State.respond, State.respond_results, List.append_assoc, List.singleton_append]
  rfl

/-- Settles O40: the registers of the loop are the only thing a `FEED` computes, and TXS, the parameters and the queue are none
of them. -/
theorem feedLeavesTransmitSideAlone : Obligations.FeedLeavesTransmitSideAlone := by
  intro chunk s t h
  obtain ⟨_, rfl⟩ := exec_feed_next h
  exact ⟨rfl, rfl, rfl, rfl⟩

end Sys2Proof.Proofs

/-! # The encoding: frames, command rows, decoding, and which instructions complete (spec/30_encoding.md) -/

namespace Sys2Proof.Machine

open Sys2Proof.Safety

/-! ### Classifying a command byte (R72) -/

/-- What `classify` answers, one case per row of R72. -/
theorem classify_cases (cmd : Byte) :
    (cmd = 0x01#8 ∧ classify cmd = .ping) ∨ (cmd = 0x02#8 ∧ classify cmd = .ledControl) ∨
    (cmd = 0xFF#8 ∧ classify cmd = .emergencyStop) ∨
    ((cmd ≠ 0x01#8 ∧ cmd ≠ 0x02#8 ∧ cmd ≠ 0xFF#8) ∧ classify cmd = .unrecognized cmd) := by
  unfold classify
  by_cases h1 : cmd = 0x01#8
  · exact .inl ⟨h1, if_pos h1⟩
  by_cases h2 : cmd = 0x02#8
  · exact .inr (.inl ⟨h2, by rw [if_neg h1, if_pos h2]⟩)
  by_cases h3 : cmd = 0xFF#8
  · exact .inr (.inr (.inl ⟨h3, by rw [if_neg h1, if_neg h2, if_pos h3]⟩))
  · exact .inr (.inr (.inr ⟨⟨h1, h2, h3⟩, by rw [if_neg h1, if_neg h2, if_neg h3]⟩))

/-- The frame row of a command byte, one case per row of R68 to R71. -/
theorem decodeCommand_cases (cmd : Byte) (payload : Bytes) :
    (cmd = 0x01#8 ∧ decodeCommand cmd payload = .ping payload) ∨
    (cmd = 0x02#8 ∧ decodeCommand cmd payload = .ledControl payload) ∨
    (cmd = 0xFF#8 ∧ decodeCommand cmd payload = .emergencyStop payload) ∨
    ((cmd ≠ 0x01#8 ∧ cmd ≠ 0x02#8 ∧ cmd ≠ 0xFF#8) ∧ decodeCommand cmd payload = .reservedCmd cmd payload) := by
  unfold decodeCommand
  rcases classify_cases cmd with ⟨h, hc⟩ | ⟨h, hc⟩ | ⟨h, hc⟩ | ⟨h, hc⟩ <;> rw [hc]
  · exact .inl ⟨h, rfl⟩
  · exact .inr (.inl ⟨h, rfl⟩)
  · exact .inr (.inr (.inl ⟨h, rfl⟩))
  · exact .inr (.inr (.inr ⟨h, rfl⟩))

/-- A command byte that is none of the named ones belongs to the reserved row (R71). -/
theorem decodeCommand_reserved {cmd : Byte} (h : cmd ≠ 0x01#8 ∧ cmd ≠ 0x02#8 ∧ cmd ≠ 0xFF#8) (payload : Bytes) :
    decodeCommand cmd payload = .reservedCmd cmd payload := by
  rcases decodeCommand_cases cmd payload with ⟨h1, _⟩ | ⟨h2, _⟩ | ⟨h3, _⟩ | ⟨_, hd⟩
  · exact absurd h1 h.1
  · exact absurd h2 h.2.1
  · exact absurd h3 h.2.2
  · exact hd

/-! ### Frame rows and their frames -/

/-- The row of a command byte has the frame of that byte (R61). -/
theorem encodeFrame_decodeCommand (cmd : Byte) (payload : Bytes) :
    encodeFrame (decodeCommand cmd payload) = some (buildFrame cmd payload) := by
  rcases decodeCommand_cases cmd payload with ⟨rfl, h⟩ | ⟨rfl, h⟩ | ⟨rfl, h⟩ | ⟨_, h⟩ <;> rw [h] <;> rfl

/-- The row of a command byte is well-formed when its payload fits the LEN byte (R61, R71). -/
theorem decodeCommand_wellFormed (p : Params) (cmd : Byte) {payload : Bytes} (hp : payload.length ≤ 255) :
    (decodeCommand cmd payload).wellFormed p = true := by
  rcases decodeCommand_cases cmd payload with ⟨_, h⟩ | ⟨_, h⟩ | ⟨_, h⟩ | ⟨hres, h⟩ <;> rw [h]
  · exact (Instr.wellFormed_ping p payload).mpr hp
  · exact (Instr.wellFormed_ledControl p payload).mpr hp
  · exact (Instr.wellFormed_emergencyStop p payload).mpr hp
  · exact (Instr.wellFormed_reservedCmd p cmd payload).mpr ⟨hres, hp⟩

/-- A well-formed instruction with a frame is the row of some command byte, with a payload that fits. -/
theorem eq_decodeCommand_of_encodeFrame {p : Params} {i : Instr} {frame : Bytes} (hw : i.wellFormed p = true)
    (h : encodeFrame i = some frame) :
    ∃ cmd payload, payload.length ≤ 255 ∧ i = decodeCommand cmd payload ∧ frame = buildFrame cmd payload := by
  cases i with
  | ping payload =>
    cases h
    exact ⟨0x01#8, payload, (Instr.wellFormed_ping p payload).mp hw, rfl, rfl⟩
  | ledControl payload =>
    cases h
    exact ⟨0x02#8, payload, (Instr.wellFormed_ledControl p payload).mp hw, rfl, rfl⟩
  | emergencyStop payload =>
    cases h
    exact ⟨0xFF#8, payload, (Instr.wellFormed_emergencyStop p payload).mp hw, rfl, rfl⟩
  | reservedCmd cmd payload =>
    cases h
    obtain ⟨hres, hp⟩ := (Instr.wellFormed_reservedCmd p cmd payload).mp hw
    exact ⟨cmd, payload, hp, (decodeCommand_reserved hres payload).symm, rfl⟩
  | encode _ _ => cases h
  | decode _ => cases h
  | feed _ => cases h
  | readStatus _ => cases h
  | reservedOp000 => cases h
  | reservedOp101 => cases h
  | reservedOp110 => cases h
  | reservedOp111 => cases h

/-- A frame, followed by anything, decodes to its row and what follows it (R76). -/
theorem decodeFrame_buildFrame (cmd : Byte) {payload : Bytes} (rest : Bytes) (hp : payload.length ≤ 255) :
    decodeFrame (buildFrame cmd payload ++ rest) = .ok (decodeCommand cmd payload, rest) := by
  obtain ⟨_, htotal, _⟩ := frame_at_front cmd payload rest hp
  rw [decodeFrame, decodePacket_buildFrame cmd payload rest hp]
  simp only [htotal, List.drop_left]

/-- The byte sequences that decode as a frame row, and what they decode to (R61, R76, R77). -/
theorem decodeFrame_ok_iff {bs rest : Bytes} {i : Instr} : decodeFrame bs = .ok (i, rest) ↔
    ∃ cmd payload, payload.length ≤ 255 ∧ i = decodeCommand cmd payload ∧ bs = buildFrame cmd payload ++ rest := by
  constructor
  · intro h
    cases hd : decodePacket bs with
    | error e =>
      rw [decodeFrame, hd] at h
      cases h
    | ok p =>
      obtain ⟨hp, tail, rfl⟩ := decodePacket_ok_frame hd
      rw [decodeFrame_buildFrame p.cmd tail hp] at h
      cases h
      exact ⟨p.cmd, p.payload, hp, rfl, rfl⟩
  · rintro ⟨cmd, payload, hp, rfl, rfl⟩
    exact decodeFrame_buildFrame cmd rest hp

/-- The event of a well-formed instruction carries that instruction; only the reserved command row needs its operand limit
(R71, R78, R79). -/
theorem decodeEvent_encode {p : Params} {i : Instr} (hw : i.wellFormed p = true) : decodeEvent (encode i) = some i := by
  cases i with
  | reservedCmd cmd payload =>
    exact congrArg some (decodeCommand_reserved ((Instr.wellFormed_reservedCmd p cmd payload).mp hw).1 payload)
  | _ => rfl

/-! ### Sending a frame (R61, R82, R88) -/

/-- A payload that fits is sent: its frame enters TXS and is returned. -/
theorem sendFrame_of_le (cmd : Byte) {payload : Bytes} (s : State) (hp : payload.length ≤ 255) :
    sendFrame cmd payload s = (s.txAppend (buildFrame cmd payload)).respond (.encoded (.ok (buildFrame cmd payload))) := by
  rcases sendFrame_cases cmd payload s with ⟨hlt, _⟩ | ⟨_, hs⟩
  · omega
  · exact hs

/-- Sending a frame has the effect R88 writes for `ENCODE`. -/
theorem sendFrame_eq_encodeEffect (cmd : Byte) (payload : Bytes) (s : State) :
    sendFrame cmd payload s = encodeEffect cmd payload s := by
  unfold encodeEffect
  rcases sendFrame_cases cmd payload s with ⟨hlt, hs⟩ | ⟨hle, hs⟩
  · rw [hs, if_pos hlt]
    rfl
  · rw [hs, if_neg (by omega)]
    rfl

theorem exec_ping (payload : Bytes) (s : State) : exec (.ping payload) s = .next (sendFrame 0x01#8 payload s) := rfl

theorem exec_ledControl (payload : Bytes) (s : State) :
    exec (.ledControl payload) s = .next (sendFrame 0x02#8 payload s) := rfl

theorem exec_emergencyStop (payload : Bytes) (s : State) :
    exec (.emergencyStop payload) s = .next (sendFrame 0xFF#8 payload s) := rfl

theorem exec_reservedCmd (cmd : Byte) (payload : Bytes) (s : State) :
    exec (.reservedCmd cmd payload) s = .next (sendFrame cmd payload s) := rfl

/-- The payload bytes stand in order from offset 4 of a frame (R61). -/
theorem buildFrame_getElem?_payload (cmd : Byte) {payload : Bytes} {j : Nat} (hj : j < payload.length) :
    (buildFrame cmd payload)[4 + j]? = payload[j]? := by
  have hbody : (frameBody cmd payload)[4 + j]? = payload[j]? := by
    rw [frameBody, List.getElem?_append_right (Nat.le_add_right 4 j)]
    exact congrArg (payload[·]?) (Nat.add_sub_cancel_left 4 j)
  rw [buildFrame, List.getElem?_append_left (by rw [frameBody_length]; omega), hbody]

/-- The last byte of a frame is the XOR of all bytes before it (R61, R85). -/
theorem buildFrame_getElem?_checksum (cmd : Byte) (payload : Bytes) :
    (buildFrame cmd payload)[4 + payload.length]? = some (xorFold ((buildFrame cmd payload).take (4 + payload.length))) := by
  rw [← frameBody_length cmd payload, buildFrame, List.take_left, List.getElem?_concat_length]

/-! ### Completion (R146, R150) -/

/-- An instruction that answers a next state returns exactly one result (R78). -/
theorem exec_one_result {i : Instr} {s t : State} (h : exec i s = .next t) : ∃ r, t.results = s.results ++ [r] := by
  obtain ⟨cmd, payload, _, rfl⟩ | ⟨buf, _, _, rfl⟩ | ⟨idx, _, rfl⟩ | ⟨chunk, _, _, rfl⟩ := exec_next_cases h
  · obtain ⟨frame, r, hsend⟩ := sendFrame_uniform cmd payload
    exact ⟨r, by rw [hsend]; rfl⟩
  · exact ⟨_, rfl⟩
  · exact ⟨_, rfl⟩
  · exact ⟨_, rfl⟩

/-- An instruction leaves the pending events alone (R51). -/
theorem exec_keeps_pending {i : Instr} {s t : State} (h : exec i s = .next t) : t.pending = s.pending := by
  obtain ⟨cmd, payload, _, rfl⟩ | ⟨buf, _, _, rfl⟩ | ⟨idx, _, rfl⟩ | ⟨chunk, _, _, rfl⟩ := exec_next_cases h
  · exact sendFrame_pending cmd payload s
  · rfl
  · rfl
  · rfl

/-- The rows of the four `op` values that R80 reserves. -/
def ReservedOpRow (i : Instr) : Prop :=
  i = .reservedOp000 ∨ i = .reservedOp101 ∨ i = .reservedOp110 ∨ i = .reservedOp111

theorem exec_reservedOpRow {i : Instr} (h : ReservedOpRow i) (s : State) : exec i s = .refused .reservedOp := by
  rcases h with rfl | rfl | rfl | rfl <;> rfl

/-- A reserved `op` value selects one of the four rows, whatever the other fields (R79, R80). -/
theorem decodeRequest_reservedOpRow {r : Request}
    (h : r.op = 0b000#3 ∨ r.op = 0b101#3 ∨ r.op = 0b110#3 ∨ r.op = 0b111#3) : ReservedOpRow (decodeRequest r) := by
  unfold decodeRequest
  rcases h with h | h | h | h <;> rw [h]
  · exact .inl rfl
  · exact .inr (.inl rfl)
  · exact .inr (.inr (.inl rfl))
  · exact .inr (.inr (.inr rfl))

/-- Within its operand limits, every row but the four reserved ones answers a next state (R146, R150). -/
theorem exec_next_of_wellFormed {i : Instr} {s : State} (hw : i.wellFormed s.par = true) (hr : ¬ ReservedOpRow i) :
    ∃ t, exec i s = .next t := by
  cases i with
  | encode cmd payload => exact ⟨_, exec_encode cmd payload s⟩
  | decode buf => exact ⟨_, exec_decode_next_iff.mpr ⟨(Instr.wellFormed_decode s.par buf).mp hw, rfl⟩⟩
  | feed chunk => exact ⟨_, exec_feed_of_le ((Instr.wellFormed_feed s.par chunk).mp hw)⟩
  | readStatus idx => exact ⟨_, exec_readStatus idx s⟩
  | reservedOp000 => exact absurd (.inl rfl) hr
  | reservedOp101 => exact absurd (.inr (.inl rfl)) hr
  | reservedOp110 => exact absurd (.inr (.inr (.inl rfl))) hr
  | reservedOp111 => exact absurd (.inr (.inr (.inr rfl))) hr
  | ping payload => exact ⟨_, exec_ping payload s⟩
  | ledControl payload => exact ⟨_, exec_ledControl payload s⟩
  | emergencyStop payload => exact ⟨_, exec_emergencyStop payload s⟩
  | reservedCmd cmd payload => exact ⟨_, exec_reservedCmd cmd payload s⟩

end Sys2Proof.Machine

namespace Sys2Proof.Proofs

open Sys2Proof.Machine Sys2Proof.Safety

/-- Settles O15: a well-formed frame row is the row of its own command byte, and a frame decodes to that row. -/
theorem decodeOfEncodeIsIdentity : Obligations.DecodeOfEncodeIsIdentity := by
  refine ⟨fun p i hw => decodeEvent_encode hw, fun p i frame rest hw hframe => ?_⟩
  obtain ⟨cmd, payload, hp, rfl, rfl⟩ := eq_decodeCommand_of_encodeFrame hw hframe
  exact decodeFrame_buildFrame cmd rest hp

/-- Settles O4: a payload that fits is sent as `buildFrame`, whose bytes are read off one field at a time. -/
theorem encodedFrameLayout : Obligations.EncodedFrameLayout := by
  intro cmd payload s hp
  have hlen := buildFrame_length cmd payload
  have hLEN : (BitVec.ofNat 8 payload.length).toNat = payload.length := by rw [BitVec.toNat_ofNat]; omega
  exact ⟨buildFrame cmd payload, _, (exec_encode cmd payload s).trans (congrArg _ (sendFrame_of_le cmd s hp)), rfl,
    hlen, by omega, by omega, rfl, rfl, rfl, ⟨_, rfl, hLEN⟩, fun _ hj => buildFrame_getElem?_payload cmd hj,
    buildFrame_getElem?_checksum cmd payload⟩

/-- Settles O16: what decodes starts with the frame of a packet whose payload fits. -/
theorem decodedFrameIsTheEncodedOne : Obligations.DecodedFrameIsTheEncodedOne := by
  intro bs rest i h
  obtain ⟨cmd, payload, hp, rfl, rfl⟩ := decodeFrame_ok_iff.mp h
  exact ⟨_, encodeFrame_decodeCommand cmd payload, rfl, fun p => decodeCommand_wellFormed p cmd hp⟩

/-- Settles O22: the operand limits rule out the two oversize refusals, and an instruction that completes returns one result and
leaves the parameters and the queue. -/
theorem wellFormedInstructionsComplete : Obligations.WellFormedInstructionsComplete := by
  intro i s hw h000 h101 h110 h111
  have hr : ¬ ReservedOpRow i := by simp [ReservedOpRow, h000, h101, h110, h111]
  obtain ⟨t, ht⟩ := exec_next_of_wellFormed hw hr
  obtain ⟨r, hresults⟩ := exec_one_result ht
  exact ⟨t, r, ht, hresults, exec_keeps_par ht, exec_keeps_pending ht⟩

/-- Settles O10: the frame rows share `ENCODE`'s operation on the state. -/
theorem commandRowsRunAsEncode : Obligations.CommandRowsRunAsEncode := by
  intro payload s
  simp only [exec_ping, exec_ledControl, exec_emergencyStop, exec_reservedCmd, sendFrame_eq_encodeEffect, implies_true,
    and_self]

/-- Settles O11: `ENCODE` of the four commands sends the frames written out (R82; that the frame rows are the pseudo-operations is
log entry 5). -/
theorem pseudoOperationFrames : Obligations.PseudoOperationFrames := by
  intro s
  have hping : buildFrame 0x01#8 [] = [0xAA, 0x55, 0x01, 0x00, 0xFE] := by decide
  have hledOn : buildFrame 0x02#8 [0xFF] = [0xAA, 0x55, 0x02, 0x01, 0xFF, 0x03] := by decide
  have hledOff : buildFrame 0x02#8 [0x00] = [0xAA, 0x55, 0x02, 0x01, 0x00, 0xFC] := by decide
  have hestop : buildFrame 0xFF#8 [] = [0xAA, 0x55, 0xFF, 0x00, 0x00] := by decide
  refine ⟨?_, ?_, ?_, ?_⟩
  · rw [exec_ping, sendFrame_of_le _ s (by decide), hping]
    rfl
  · rw [exec_ledControl, sendFrame_of_le _ s (by decide), hledOn]
    rfl
  · rw [exec_ledControl, sendFrame_of_le _ s (by decide), hledOff]
    rfl
  · rw [exec_emergencyStop, sendFrame_of_le _ s (by decide), hestop]
    rfl

/-- Settles O12: the four cases of R72 exclude each other. -/
theorem classifyNamesTheCommands : Obligations.ClassifyNamesTheCommands := by
  intro cmd
  rcases classify_cases cmd with ⟨rfl, _⟩ | ⟨rfl, _⟩ | ⟨rfl, _⟩ | ⟨⟨h1, h2, h3⟩, hc⟩
  · decide
  · decide
  · decide
  · simp [hc, h1, h2, h3]

/-- Settles O13: each `op` value picks its arm of the decoder, which reads no field the operation does not use. -/
theorem opFieldSelectsOperation : Obligations.OpFieldSelectsOperation :=
  fun _ _ _ => ⟨rfl, rfl, rfl, rfl, rfl, rfl, rfl, rfl, rfl⟩

/-- Settles O14: the first four are the frames of their rows, followed by what is left over; the last fails at its checksum. -/
theorem writtenFramesDecode : Obligations.WrittenFramesDecode :=
  ⟨decodeFrame_ok_iff.mpr ⟨0x01, [], by decide, rfl, by decide⟩,
    decodeFrame_ok_iff.mpr ⟨0x02, [0xFF], by decide, rfl, by decide⟩,
    decodeFrame_ok_iff.mpr ⟨0xFF, [], by decide, rfl, by decide⟩,
    decodeFrame_ok_iff.mpr ⟨0x10, [0x01, 0x02, 0x03], by decide, rfl, by decide⟩,
    by decide⟩

/-- Settles O20: a reserved `op` value selects one of the four rows, and each row refuses. -/
theorem reservedOpIsRefused : Obligations.ReservedOpIsRefused := by
  refine ⟨fun s r rest hpending hop => ?_, fun s => ⟨rfl, rfl, rfl, rfl⟩⟩
  rw [stepRunsDecodedInstruction s _ rest (decodeRequest r) hpending rfl]
  exact exec_reservedOpRow (decodeRequest_reservedOpRow hop) _

end Sys2Proof.Proofs

/-! # The codec: the checksum as a zero sum, what `DECODE` answers, damaged frames (spec/40_codec.md) -/

namespace Sys2Proof.Machine

open Sys2Proof.Safety

/-! ### Sums of bytes (R15, R85, R86) -/

theorem xorFold_take_add_one {s : Bytes} {n : Nat} (h : n < s.length) :
    xorFold (s.take (n + 1)) = xorFold (s.take n) ^^^ s.getD n 0#8 := by
  rw [List.take_add_one, List.getElem?_eq_getElem h, Option.toList_some, xorFold_append, List.getD_eq_getElem _ _ h,
    xorFold_cons, xorFold_nil, BitVec.xor_zero]

/-- Two sequences of one length differ by an error pattern whose sum is the sum of both (R93). -/
theorem xorFold_zipWith {s t : Bytes} (h : s.length = t.length) :
    xorFold (List.zipWith (· ^^^ ·) s t) = xorFold s ^^^ xorFold t := by
  induction s generalizing t with
  | nil => rw [List.length_eq_zero_iff.mp h.symm]; rfl
  | cons a s ih =>
    cases t with
    | nil => cases h
    | cons b t =>
      rw [List.zipWith_cons_cons, xorFold_cons, xorFold_cons, xorFold_cons, ih (Nat.succ.inj h)]
      ac_rfl

/-- The two header bytes contribute `0xFF` to the checksum (R86). -/
theorem xorFold_frameBody (cmd : Byte) (payload : Bytes) :
    xorFold (frameBody cmd payload) = 0xFF#8 ^^^ cmd ^^^ BitVec.ofNat 8 payload.length ^^^ xorFold payload := by
  have hhdr : Config.hdr0 ^^^ Config.hdr1 = 0xFF#8 := by decide
  simp only [frameBody, xorFold_append, xorFold_cons, xorFold_nil, BitVec.xor_zero, ← BitVec.xor_assoc, hhdr]

/-- A whole frame sums to zero, since its last byte is the sum of the others. -/
theorem xorFold_buildFrame (cmd : Byte) (payload : Bytes) : xorFold (buildFrame cmd payload) = 0#8 := by
  rw [buildFrame, xorFold_append, xorFold_cons, xorFold_nil, BitVec.xor_zero, BitVec.xor_self]

/-- A header contributes `0xFF` to the sum of the sequence it starts. -/
theorem xorFold_of_headerAt {s : Bytes} (h : HeaderAt s 0) : xorFold s = 0xFF#8 ^^^ xorFold (s.drop 2) := by
  obtain ⟨h0, h1⟩ := h
  match s, h0, h1 with
  | _ :: _ :: tail, rfl, rfl =>
    rw [xorFold_cons, xorFold_cons, ← BitVec.xor_assoc]
    rfl

/-! ### The fields of a frame (R61) -/

theorem headerAt_buildFrame (cmd : Byte) (payload : Bytes) : HeaderAt (buildFrame cmd payload) 0 := ⟨rfl, rfl⟩

theorem buildFrame_getElem?_cmd (cmd : Byte) (payload : Bytes) : (buildFrame cmd payload)[2]? = some cmd := rfl

theorem buildFrame_getElem?_len (cmd : Byte) (payload : Bytes) :
    (buildFrame cmd payload)[3]? = some (BitVec.ofNat 8 payload.length) := rfl

/-- LEN holds the length of a payload that fits (R61, R65). -/
theorem toNat_lenByte {payload : Bytes} (hp : payload.length ≤ 255) :
    (BitVec.ofNat 8 payload.length).toNat = payload.length := by
  rw [BitVec.toNat_ofNat]
  omega

/-! ### What the codec answers in every state (R88, R89) -/

/-- An `ENCODE` of a payload that fits sends its frame and returns it. -/
theorem exec_encode_of_le (cmd : Byte) {payload : Bytes} (s : State) (hp : payload.length ≤ 255) :
    exec (.encode cmd payload) s =
      .next ((s.txAppend (buildFrame cmd payload)).respond (.encoded (.ok (buildFrame cmd payload)))) := by
  rw [exec_encode, sendFrame_of_le cmd s hp]

/-- A legal build takes every input up to the length of the longest frame (R12, R90). -/
theorem exec_decode_of_legal {buf : Bytes} {s : State} (hs : s.par.Legal) (hbuf : buf.length ≤ 260) :
    exec (.decode buf) s = .next (s.respond (.decoded (decodePacket buf))) := by
  obtain ⟨_, _, hmax⟩ := hs
  exact exec_decode_next_iff.mpr ⟨by omega, rfl⟩

theorem decodePacket_of_not_headerAt {buf : Bytes} (h5 : 5 ≤ buf.length) (hh : ¬ HeaderAt buf 0) :
    decodePacket buf = .error .badHeader := by
  rcases decodePacket_cases buf with ⟨_, hlt⟩ | ⟨h, _⟩ | ⟨_, h, _⟩ | ⟨_, h, _⟩ | ⟨_, h, _⟩
  · omega
  · exact h
  all_goals exact absurd h hh

/-- The checksum byte matches exactly when the candidate sums to zero, that byte included (R85). -/
theorem checksum_matches_iff {buf : Bytes} {n : Nat} (h : 4 + n < buf.length) :
    byteAt buf (4 + n) = checksum buf n ↔ xorFold (buf.take (5 + n)) = 0#8 := by
  have hck : checksum buf n = xorFold (buf.take (4 + n)) := rfl
  rw [Nat.add_right_comm 4 1 n, xorFold_take_add_one h, BitVec.xor_eq_zero_iff, hck, eq_comm]
  rfl

/-- Behind a header, `DECODE` waits for the bytes LEN declares and then judges the candidate by its sum (R89, R91). -/
theorem decodePacket_of_headerAt {buf : Bytes} {len : Byte} (hh : HeaderAt buf 0) (hlen : buf[3]? = some len) :
    decodePacket buf =
      if buf.length < 5 + len.toNat then .error .incomplete
      else if xorFold (buf.take (5 + len.toNat)) = 0#8 then .ok ⟨buf.getD 2 0#8, (buf.drop 4).take len.toNat⟩
      else .error .checksumMismatch := by
  have hL : lenField buf = len.toNat := by rw [lenField, byteAt, List.getD_eq_getElem?_getD, hlen, Option.getD_some]
  have htotal : frameTotal buf = 5 + len.toNat := by rw [frameTotal, hL]; omega
  rcases decodePacket_cases buf with ⟨h, hlt⟩ | ⟨_, _, hno⟩ | ⟨h, _, _, hlt⟩ | ⟨h, _, hle, hck⟩ | ⟨h, _, hle, hck⟩
  · rw [h, if_pos (by omega)]
  · exact absurd hh hno
  · rw [h, if_pos (by omega)]
  · rw [hL, Ne, checksum_matches_iff (by omega)] at hck
    rw [h, if_neg (by omega), if_neg hck]
  · rw [hL, checksum_matches_iff (by omega)] at hck
    rw [h, if_neg (by omega), if_pos hck, hL, slice, Nat.add_sub_cancel_left]
    rfl

/-- `DECODE` runs the checks as R89 writes them. -/
theorem decodePacket_eq_decodeResult (buf : Bytes) : decodePacket buf = decodeResult buf := by
  have hhdr : hasHeader buf = false ↔ buf.getD 0 0#8 ≠ 0xAA#8 ∨ buf.getD 1 0#8 ≠ 0x55#8 := by
    rw [← Bool.not_eq_true, hasHeader, Bool.and_eq_true, beq_iff_eq, beq_iff_eq, Decidable.not_and_iff_not_or_not]
    rfl
  simp only [decodePacket, hhdr, slice, Nat.add_sub_cancel_left]
  rfl

/-! ### Frames with one damaged byte (R92) -/

/-- The sequence with the bits of `e` flipped at offset `i`. -/
def flipBits (s : Bytes) (i : Nat) (e : Byte) : Bytes := s.set i (s.getD i 0#8 ^^^ e)

section flipBits

variable {s : Bytes} {i : Nat} {e : Byte}

@[simp] theorem flipBits_length : (flipBits s i e).length = s.length := List.length_set

theorem flipBits_getElem?_ne {j : Nat} (h : i ≠ j) : (flipBits s i e)[j]? = s[j]? := List.getElem?_set_ne h

theorem flipBits_getElem?_changes (hi : i < s.length) (he : e ≠ 0#8) : (flipBits s i e)[i]? ≠ s[i]? := by
  rw [flipBits, List.getElem?_set_self hi, List.getElem?_eq_getElem hi, List.getD_eq_getElem _ _ hi]
  simpa using he

theorem headerAt_flipBits (hi : 2 ≤ i) : HeaderAt (flipBits s i e) 0 ↔ HeaderAt s 0 := by
  rw [HeaderAt, flipBits_getElem?_ne (by omega), flipBits_getElem?_ne (by omega), HeaderAt]

/-- Flipping bits anywhere flips the same bits of the sum. -/
theorem xorFold_flipBits (hi : i < s.length) : xorFold (flipBits s i e) = xorFold s ^^^ e := by
  induction s generalizing i with
  | nil => cases hi
  | cons a s ih =>
    cases i with
    | zero =>
      change xorFold ((a ^^^ e) :: s) = xorFold (a :: s) ^^^ e
      rw [xorFold_cons, xorFold_cons]
      ac_rfl
    | succ i =>
      change xorFold (a :: flipBits s i e) = xorFold (a :: s) ^^^ e
      rw [xorFold_cons, xorFold_cons, ih (Nat.lt_of_succ_lt_succ hi), BitVec.xor_assoc]

end flipBits

section damagedFrame

variable {cmd : Byte} {payload : Bytes} {i : Nat} {e : Byte}

/-- Damage to a header byte leaves no header (first row of R92). -/
theorem decodePacket_flipBits_header (hi : i < 2) (he : e ≠ 0#8) :
    decodePacket (flipBits (buildFrame cmd payload) i e) = .error .badHeader := by
  have hlen := buildFrame_length cmd payload
  have hchange := flipBits_getElem?_changes (s := buildFrame cmd payload) (i := i) (by omega) he
  refine decodePacket_of_not_headerAt (by rw [flipBits_length]; omega) ?_
  rintro ⟨h0, h1⟩
  match i, hi with
  | 0, _ => exact hchange h0
  | 1, _ => exact hchange h1

/-- A frame damaged in one byte sums to the damage (R92). -/
theorem xorFold_flipBits_buildFrame (hi : i < 5 + payload.length) : xorFold (flipBits (buildFrame cmd payload) i e) = e := by
  rw [xorFold_flipBits (by rwa [buildFrame_length]), xorFold_buildFrame, BitVec.zero_xor]

/-- Damage to CMD, the payload or CHK fails the checksum (second row of R92). -/
theorem decodePacket_flipBits_checked (hp : payload.length ≤ 255) (h : i = 2 ∨ 4 ≤ i) (hi : i < 5 + payload.length)
    (he : e ≠ 0#8) : decodePacket (flipBits (buildFrame cmd payload) i e) = .error .checksumMismatch := by
  have hh : HeaderAt (flipBits (buildFrame cmd payload) i e) 0 :=
    (headerAt_flipBits (by omega)).mpr (headerAt_buildFrame cmd payload)
  have hlen : (flipBits (buildFrame cmd payload) i e)[3]? = some (BitVec.ofNat 8 payload.length) :=
    flipBits_getElem?_ne (by omega)
  have hall : (flipBits (buildFrame cmd payload) i e).length = 5 + payload.length := by simp
  rw [decodePacket_of_headerAt hh hlen, toNat_lenByte hp, if_neg (by omega), ← hall, List.take_length,
    xorFold_flipBits_buildFrame hi, if_neg he]

/-- The sum before the checksum byte of a damaged frame differs from that byte in the damaged bits (second row of R92). -/
theorem checksum_flipBits_xor (hi : i < 5 + payload.length) :
    xorFold ((flipBits (buildFrame cmd payload) i e).take (4 + payload.length)) ^^^
      (flipBits (buildFrame cmd payload) i e).getD (4 + payload.length) 0#8 = e := by
  have hall : (flipBits (buildFrame cmd payload) i e).length = 4 + payload.length + 1 := by simp; omega
  rw [← xorFold_take_add_one (by omega), ← hall, List.take_length, xorFold_flipBits_buildFrame hi]

/-- With a damaged LEN, `DECODE` judges the candidate that the new LEN declares, its bytes being those of the frame (last two rows
of R92). -/
theorem decodePacket_flipBits_len :
    let damaged := flipBits (buildFrame cmd payload) 3 e
    let len := (damaged.getD 3 0#8).toNat
    decodePacket damaged =
      if payload.length < len then .error .incomplete
      else if (buildFrame cmd payload).getD (4 + len) 0#8 = xorFold (damaged.take (4 + len)) then
        .ok ⟨cmd, ((buildFrame cmd payload).drop 4).take len⟩
      else .error .checksumMismatch := by
  intro damaged len
  have hh : HeaderAt damaged 0 := (headerAt_flipBits (by omega)).mpr (headerAt_buildFrame cmd payload)
  have hlength : damaged.length = 5 + payload.length := by simp [damaged]
  have hlen : damaged[3]? = some (damaged.getD 3 0#8) := by
    rw [List.getD_eq_getElem _ _ (by omega), List.getElem?_eq_getElem]
  have hcmd : damaged.getD 2 0#8 = cmd := by
    rw [List.getD_eq_getElem?_getD, flipBits_getElem?_ne (by omega), buildFrame_getElem?_cmd, Option.getD_some]
  have hpayload : damaged.drop 4 = (buildFrame cmd payload).drop 4 := List.drop_set_of_lt (by omega)
  have hchk : damaged.getD (4 + len) 0#8 = (buildFrame cmd payload).getD (4 + len) 0#8 := by
    rw [List.getD_eq_getElem?_getD, flipBits_getElem?_ne (by omega), List.getD_eq_getElem?_getD]
  rw [decodePacket_of_headerAt hh hlen, hlength, hcmd, hpayload]
  by_cases hgrown : payload.length < len
  · rw [if_pos hgrown, if_pos (by omega)]
  · have hsum : xorFold (damaged.take (5 + len)) = 0#8 ↔
        (buildFrame cmd payload).getD (4 + len) 0#8 = xorFold (damaged.take (4 + len)) := by
      rw [Nat.add_right_comm 4 1 len, xorFold_take_add_one (by omega), hchk, BitVec.xor_eq_zero_iff, eq_comm]
    rw [if_neg hgrown, if_neg (by omega)]
    exact if_congr hsum rfl rfl

end damagedFrame

theorem oneBit_ne_zero {b : Nat} (h : b < 8) : 1#8 <<< b ≠ 0#8 := by decide +revert

end Sys2Proof.Machine

namespace Sys2Proof.Proofs

open Sys2Proof.Machine Sys2Proof.Safety

/-- Settles O5: the last byte of a frame is the sum of its body. -/
theorem checksumOfFrame : Obligations.ChecksumOfFrame := by
  intro cmd payload s hp
  refine ⟨buildFrame cmd payload, _, exec_encode_of_le cmd s hp, rfl, ?_⟩
  rw [buildFrame, List.getLast?_concat, xorFold_frameBody]
  rfl

/-- Settles O6: `DECODE` accepts a frame with nothing behind it. -/
theorem codecRoundTrip : Obligations.CodecRoundTrip := by
  intro cmd payload s u hp hu
  have ⟨_, _, hmax⟩ := hu
  have hlen := buildFrame_length cmd payload
  have hdec : decodePacket (buildFrame cmd payload) = .ok ⟨cmd, payload⟩ := by
    simpa using decodePacket_buildFrame cmd payload [] hp
  exact ⟨buildFrame cmd payload, _, _, exec_encode_of_le cmd s hp, rfl,
    hlen, by omega, exec_decode_of_legal hu (by omega), by rw [hdec]; rfl⟩

/-- Settles O7: the candidate has a header and all the bytes its LEN declares. -/
theorem candidateNeverIncompleteOrBadHeader : Obligations.CandidateNeverIncompleteOrBadHeader := by
  intro stream len s hs hh hlen hle
  have hlt := len.isLt
  have hlength : (stream.take (5 + len.toNat)).length = 5 + len.toNat := by rw [List.length_take]; omega
  have htake : ∀ j, j < 5 → (stream.take (5 + len.toNat))[j]? = stream[j]? := fun j hj =>
    List.getElem?_take_of_lt (by omega)
  have hh' : HeaderAt (stream.take (5 + len.toNat)) 0 := by
    rw [HeaderAt, htake 0 (by omega), htake 1 (by omega)]
    exact hh
  refine ⟨_, _, exec_decode_of_legal hs (by omega), rfl, ?_⟩
  rw [decodePacket_of_headerAt hh' ((htake 3 (by omega)).trans hlen), if_neg (by omega)]
  split
  · exact .inl ⟨_, rfl⟩
  · exact .inr rfl

/-- Settles O8, row by row of R92. -/
theorem singleBitErrorOutcome : Obligations.SingleBitErrorOutcome := by
  intro cmd payload i b s hp hs hi hb
  have hbit := oneBit_ne_zero hb
  have hlength : (flipBits (buildFrame cmd payload) i (1#8 <<< b)).length ≤ 260 := by
    rw [flipBits_length, buildFrame_length]; omega
  refine ⟨buildFrame cmd payload, flipBits (buildFrame cmd payload) i (1#8 <<< b), _, _, rfl, rfl,
    exec_decode_of_legal hs hlength, rfl, ?_, ?_, ?_, ?_⟩
  · exact fun h => decodePacket_flipBits_header h hbit
  · exact fun h => ⟨decodePacket_flipBits_checked hp h hi hbit, checksum_flipBits_xor hi⟩
  · rintro rfl hgrown
    rw [decodePacket_flipBits_len, if_pos hgrown]
  · rintro rfl hshrunk
    rw [decodePacket_flipBits_len, if_neg (by omega)]
    exact ⟨fun h => if_pos h, fun h => if_neg h⟩

/-- Settles O9: an intact frame sums to zero, so the error pattern has the sum of the damaged frame, by which `DECODE` judges it. -/
theorem undetectedErrorsAreZeroSums : Obligations.UndetectedErrorsAreZeroSums := by
  intro cmd payload damaged s hp hs hlength h0 h1 hlen
  have hdec := decodePacket_of_headerAt ⟨h0, h1⟩ hlen
  rw [toNat_lenByte hp, if_neg (by omega), ← hlength, List.take_length] at hdec
  have hframe : 0xFF#8 = xorFold ((buildFrame cmd payload).drop 2) := by
    rw [← BitVec.xor_eq_zero_iff, ← xorFold_of_headerAt (headerAt_buildFrame cmd payload), xorFold_buildFrame]
  have hpattern : xorFold ((List.zipWith (· ^^^ ·) (buildFrame cmd payload) damaged).drop 2) = xorFold damaged := by
    rw [List.drop_zipWith, xorFold_zipWith (by rw [List.length_drop, List.length_drop, buildFrame_length, hlength]), ← hframe,
      xorFold_of_headerAt ⟨h0, h1⟩]
  refine ⟨_, _, exec_decode_of_legal hs (by omega), rfl, ?_⟩
  rw [hdec, hpattern]
  by_cases hzero : xorFold damaged = 0#8
  · rw [if_pos hzero]
    exact ⟨⟨fun _ => hzero, fun _ => ⟨_, rfl⟩⟩, fun _ h => (Except.ok.inj h).symm⟩
  · rw [if_neg hzero]
    exact ⟨⟨(fun ⟨_, h⟩ => nomatch h), fun h => absurd h hzero⟩, fun _ h => nomatch h⟩

/-- Settles O1: `op` 001 is an arm of the decoder, and `ENCODE` sends the frame R88 writes. -/
theorem encodeBuildsAndAppendsFrame : Obligations.EncodeBuildsAndAppendsFrame := by
  refine ⟨fun r hop => by rw [decodeRequest, hop]; rfl, fun cmd payload s => ?_⟩
  rw [exec_encode, sendFrame_eq_encodeEffect]

/-- Settles O2: `op` 010 is an arm of the decoder, and `DECODE` runs the checks of R89. -/
theorem decodeChecksInOrder : Obligations.DecodeChecksInOrder := by
  refine ⟨fun r hop => by rw [decodeRequest, hop]; rfl, fun buf s => ?_⟩
  rw [← decodePacket_eq_decodeResult]
  rcases exec_decode_cases buf s with ⟨hlt, h⟩ | ⟨hle, h⟩
  · exact ⟨fun _ => h, fun hle => absurd hlt (Nat.not_lt_of_le hle)⟩
  · exact ⟨fun hlt => absurd hlt (Nat.not_lt_of_le hle), fun _ => h⟩

/-- Settles O3: sending a frame writes TXS and a result, `DECODE` a result, and neither result depends on the state. -/
theorem codecKeepsNoState : Obligations.CodecKeepsNoState := by
  refine ⟨fun cmd payload s t h => ?_, fun buf s t h => ?_, fun i s s' t t' hi h h' => ?_⟩
  · cases h
    exact ⟨sendFrame_rb .., sendFrame_chkErr .., sendFrame_rxPkt .., sendFrame_pkts .., sendFrame_rxs .., sendFrame_par ..,
      sendFrame_pending ..⟩
  · obtain ⟨_, rfl⟩ := exec_decode_next_iff.mp h
    exact ⟨rfl, rfl, rfl, rfl, rfl, rfl, rfl, rfl⟩
  · rcases hi with ⟨cmd, payload, rfl⟩ | ⟨buf, rfl⟩
    · obtain ⟨frame, r, hsend⟩ := sendFrame_uniform cmd payload
      cases h
      cases h'
      exact ⟨r, by rw [hsend]; rfl, by rw [hsend]; rfl⟩
    · obtain ⟨_, rfl⟩ := exec_decode_next_iff.mp h
      obtain ⟨_, rfl⟩ := exec_decode_next_iff.mp h'
      exact ⟨_, rfl, rfl⟩

end Sys2Proof.Proofs

/-! # The reassembler: the loop of `FEED` as the relation of R105, and its equations (spec/41_reassembler.md) -/

namespace Sys2Proof.Machine

open Sys2Proof.Safety

/-! ### The header search (R106, R107) -/

/-- Either no header stands in the buffer or one of them is the first (R106). -/
theorem noHeader_or_firstHeader (s : Bytes) : NoHeader s ∨ ∃ k, FirstHeader s k := by
  cases hk : findHdr s with
  | none => exact .inl ((findHdr_eq_none_iff s).mp hk)
  | some k => exact .inr ⟨k, (findHdr_eq_some_iff s k).mp hk⟩

theorem firstHeader_zero {s : Bytes} (h : HeaderAt s 0) : FirstHeader s 0 :=
  ⟨h, fun _ hj => absurd hj (Nat.not_lt_zero _)⟩

theorem firstHeader_unique {s : Bytes} {j k : Nat} (hj : FirstHeader s j) (hk : FirstHeader s k) : j = k := by
  by_contra hne
  rcases Nat.lt_or_gt_of_ne hne with hlt | hlt
  · exact hk.2 j hlt hj.1
  · exact hj.2 k hlt hk.1

/-- The discard leaves the tail that R107 keeps. -/
theorem noHeaderDiscard_eq_keptTail (policy : NohdrPolicy) (rb : Bytes) : noHeaderDiscard policy rb = keptTail policy rb := by
  cases policy with
  | discardAll => rfl
  | keepTailAA =>
    have hlast : byteAt rb (rb.length - 1) = 0xAA#8 ↔ rb.getLast? = some 0xAA#8 := by
      rw [byteAt_eq_iff rb _ _ (by decide), List.getLast?_eq_getElem?]
    by_cases h : rb.getLast? = some 0xAA#8
    · exact (if_pos (hlast.mpr h)).trans (if_pos ⟨rfl, h⟩).symm
    · exact (if_neg (fun hb => h (hlast.mp hb))).trans (if_neg (fun hk => h hk.2)).symm

theorem keptTail_cases (policy : NohdrPolicy) (rb : Bytes) :
    keptTail policy rb = [] ∨ (keptTail policy rb = [0xAA#8] ∧ rb.getLast? = some 0xAA#8) := by
  unfold keptTail
  split
  · rename_i h
    exact .inr ⟨rfl, h.2⟩
  · exact .inl rfl

/-! ### The candidate at the front (R61, R91) -/

theorem lenField_of_len {s : Bytes} {len : Byte} (h : s[3]? = some len) : lenField s = len.toNat := by
  rw [lenField, byteAt, List.getD_eq_getElem?_getD, h, Option.getD_some]

theorem frameTotal_of_len {s : Bytes} {len : Byte} (h : s[3]? = some len) : frameTotal s = 5 + len.toNat := by
  rw [frameTotal, lenField_of_len h]
  omega

/-- A buffer that satisfies R112 holds no complete candidate. -/
theorem candidate_of_bufInv {r : Reasm} (h : BufInv r.rb) : r.candidate = (r, false) := by
  unfold Reasm.candidate
  by_cases h4 : r.rb.length < 4
  · exact if_pos h4
  · obtain ⟨len, hlen, hlt⟩ := incomplete_of_bufInv h (by omega)
    rw [if_neg h4, frameTotal_of_len hlen, if_pos hlt]

/-- A complete candidate is judged by `DECODE` (step 6 of R105). -/
theorem candidate_of_complete {r : Reasm} {len : Byte} (hlen : r.rb[3]? = some len) (hle : 5 + len.toNat ≤ r.rb.length) :
    r.candidate = r.settle (5 + len.toNat) (decodeResult (r.rb.take (5 + len.toNat))) := by
  unfold Reasm.candidate
  rw [if_neg (by omega), frameTotal_of_len hlen, if_neg (by omega), decodePacket_eq_decodeResult]
  rfl

/-- A candidate is accepted or fails its checksum (R91). -/
theorem decodeResult_candidate {s : Bytes} {len : Byte} (hh : HeaderAt s 0) (hlen : s[3]? = some len)
    (hle : 5 + len.toNat ≤ s.length) :
    (∃ p, decodeResult (s.take (5 + len.toNat)) = .ok p) ∨
      decodeResult (s.take (5 + len.toNat)) = .error .checksumMismatch := by
  have htake : ∀ j, j < 5 → (s.take (5 + len.toNat))[j]? = s[j]? := fun j hj => List.getElem?_take_of_lt (by omega)
  have hh' : HeaderAt (s.take (5 + len.toNat)) 0 := ⟨(htake 0 (by omega)).trans hh.1, (htake 1 (by omega)).trans hh.2⟩
  rw [← decodePacket_eq_decodeResult, decodePacket_of_headerAt hh' ((htake 3 (by omega)).trans hlen),
    if_neg (by rw [List.length_take]; omega)]
  split
  · exact .inl ⟨_, rfl⟩
  · exact .inr rfl

/-- A buffer that starts with a header satisfies R112 when its LEN byte or a byte of its frame is still to come. -/
theorem bufInv_of_partial {s : Bytes} {len : Byte} (hh : HeaderAt s 0) (hlen : s[3]? = some len)
    (hlt : s.length < 5 + len.toNat) : BufInv s :=
  .inr ⟨hh.1, hh.2, len, hlen, hlt⟩

/-! ### The loop, one equation per case of R105 -/

section loop

variable {policy : NohdrPolicy} {r : Reasm} {k : Nat} {len : Byte}

theorem pass_of_firstHeader (h5 : 5 ≤ r.rb.length) (hk : FirstHeader r.rb k) :
    r.pass policy = Reasm.candidate { r with rb := r.rb.drop k } := by
  rcases pass_cases policy r with ⟨hlt, _⟩ | ⟨_, hno, _⟩ | ⟨_, j, hj, hp⟩
  · omega
  · exact absurd hk.1 (hno k)
  · rw [hp, firstHeader_unique hj hk]

/-- Step 2: without a header the buffer is discarded. -/
theorem run_of_noHeader (h5 : 5 ≤ r.rb.length) (hno : NoHeader r.rb) :
    r.run policy = { r with rb := keptTail policy r.rb } := by
  rcases pass_cases policy r with ⟨hlt, _⟩ | ⟨_, _, hp⟩ | ⟨_, j, hj, _⟩
  · omega
  · rw [run_unfold, hp, noHeaderDiscard_eq_keptTail]
    rfl
  · exact absurd hj.1 (hno j)

/-- The loop does nothing to a buffer that satisfies R112. -/
theorem run_of_bufInv (h : BufInv r.rb) : r.run policy = r := by
  by_cases h5 : r.rb.length < 5
  · exact run_of_few policy r h5
  · have hh : HeaderAt r.rb 0 := by_contra fun hno => h5 (Nat.lt_succ_of_le (length_le_of_bufInv_of_not_headerAt h hno))
    rw [run_unfold, pass_of_firstHeader (by omega) (firstHeader_zero hh), List.drop_zero, candidate_of_bufInv h]
    rfl

/-- Step 3: the bytes before the first header make no difference once the search runs. -/
theorem run_drop_firstHeader (h5 : 5 ≤ r.rb.length) (hk : FirstHeader r.rb k) :
    r.run policy = Reasm.run policy { r with rb := r.rb.drop k } := by
  have hpass := pass_of_firstHeader (policy := policy) h5 hk
  by_cases hlt : (r.rb.drop k).length < 5
  · have hinv : BufInv (r.rb.drop k) := .inl (Nat.le_of_lt_succ hlt)
    rw [run_unfold, hpass, candidate_of_bufInv hinv, run_of_bufInv hinv]
    rfl
  · have hpass' := pass_of_firstHeader (policy := policy) (r := { r with rb := r.rb.drop k }) (Nat.le_of_not_lt hlt)
      (firstHeader_zero (headerAt_drop hk.1))
    rw [run_unfold, run_unfold policy { r with rb := _ }, hpass, hpass']
    rfl

section front

variable (hh : HeaderAt r.rb 0) (hlen : r.rb[3]? = some len) (hle : 5 + len.toNat ≤ r.rb.length)

include hh hlen hle

/-- A candidate whose verdict lets the loop go on. -/
theorem run_of_settle {q : Reasm}
    (hgo : r.settle (5 + len.toNat) (decodeResult (r.rb.take (5 + len.toNat))) = (q, true)) : r.run policy = q.run policy := by
  rw [run_unfold, pass_of_firstHeader (by omega) (firstHeader_zero hh), List.drop_zero, candidate_of_complete hlen hle, hgo]
  rfl

/-- Step 6, success. -/
theorem run_of_ok {p : Packet} (hok : decodeResult (r.rb.take (5 + len.toNat)) = .ok p) : r.run policy =
    Reasm.run policy { r with rb := r.rb.drop (5 + len.toNat), rxPkt := satInc r.rxPkt, out := r.out ++ [p] } :=
  run_of_settle hh hlen hle (by rw [hok]; rfl)

/-- Step 6, checksum failure. -/
theorem run_of_mismatch (hbad : decodeResult (r.rb.take (5 + len.toNat)) = .error .checksumMismatch) : r.run policy =
    Reasm.run policy { r with rb := r.rb.drop 2, chkErr := satInc r.chkErr } :=
  run_of_settle hh hlen hle (by rw [hbad]; rfl)

end front

/-! ### The loop and the relation of R105 -/

/-- What a stop at step 4 or 5 leaves satisfies R112. -/
theorem bufInv_drop_of_noLen (hlt : r.rb.length - k < 4) : BufInv (r.rb.drop k) :=
  .inl (by rw [List.length_drop]; omega)

theorem bufInv_drop_of_partial (hk : FirstHeader r.rb k) (hlen : r.rb[k + 3]? = some len)
    (hlt : r.rb.length - k < 5 + len.toNat) : BufInv (r.rb.drop k) :=
  bufInv_of_partial (headerAt_drop hk.1) (List.getElem?_drop.trans hlen) (by rwa [List.length_drop])

/-- Every run of the relation ends in what the loop computes. -/
theorem feedRun_eq_run {n : Nat} {r' : Reasm} (h : FeedRun policy n r r') : r' = r.run policy := by
  induction h with
  | few r hlt => exact (run_of_few policy r hlt).symm
  | noHeader r h5 hno => exact (run_of_noHeader h5 hno).symm
  | noLen r k h5 hk hlt => rw [run_drop_firstHeader h5 hk, run_of_bufInv (bufInv_drop_of_noLen hlt)]
  | partialFrame r k len h5 hk hlen hlt => rw [run_drop_firstHeader h5 hk, run_of_bufInv (bufInv_drop_of_partial hk hlen hlt)]
  | emits n r r' k len p h5 hk hlen hle hok _ ih =>
    rw [ih, run_drop_firstHeader h5 hk, run_of_ok (r := { r with rb := r.rb.drop k }) (headerAt_drop hk.1)
      (List.getElem?_drop.trans hlen) (by rwa [List.length_drop]) hok, List.drop_drop]
  | fails n r r' k len h5 hk hlen hle hbad _ ih =>
    rw [ih, run_drop_firstHeader h5 hk, run_of_mismatch (r := { r with rb := r.rb.drop k }) (headerAt_drop hk.1)
      (List.getElem?_drop.trans hlen) (by rwa [List.length_drop]) hbad, List.drop_drop]

end loop

/-- The relation has a run from any registers: each pass that goes on shortens the buffer (R110). -/
theorem exists_feedRun (policy : NohdrPolicy) (r : Reasm) : ∃ n r', FeedRun policy n r r' := by
  induction hm : r.rb.length using Nat.strong_induction_on generalizing r with
  | _ m ih =>
  subst hm
  by_cases h5 : r.rb.length < 5
  · exact ⟨1, _, .few r h5⟩
  obtain hno | ⟨k, hk⟩ := noHeader_or_firstHeader r.rb
  · exact ⟨1, _, .noHeader r (by omega) hno⟩
  have hkl := headerAt_lt hk.1
  by_cases h4 : r.rb.length - k < 4
  · exact ⟨1, _, .noLen r k (by omega) hk h4⟩
  obtain ⟨len, hlen⟩ : ∃ len, r.rb[k + 3]? = some len := ⟨_, List.getElem?_eq_getElem (by omega)⟩
  by_cases hlt : r.rb.length - k < 5 + len.toNat
  · exact ⟨1, _, .partialFrame r k len (by omega) hk hlen hlt⟩
  obtain ⟨p, hok⟩ | hbad := decodeResult_candidate (headerAt_drop hk.1) (List.getElem?_drop.trans hlen)
    (by rw [List.length_drop]; omega)
  · obtain ⟨n, r', hrun⟩ := ih _ (by rw [List.length_drop]; omega)
      { r with rb := r.rb.drop (k + (5 + len.toNat)), rxPkt := satInc r.rxPkt, out := r.out ++ [p] } rfl
    exact ⟨n + 1, r', .emits n r r' k len p (by omega) hk hlen (by omega) hok hrun⟩
  · obtain ⟨n, r', hrun⟩ := ih _ (by rw [List.length_drop]; omega)
      { r with rb := r.rb.drop (k + 2), chkErr := satInc r.chkErr } rfl
    exact ⟨n + 1, r', .fails n r r' k len (by omega) hk hlen (by omega) hbad hrun⟩

/-- The loop is a run of the relation. -/
theorem feedRun_run (policy : NohdrPolicy) (r : Reasm) : ∃ n, FeedRun policy n r (r.run policy) := by
  obtain ⟨n, r', h⟩ := exists_feedRun policy r
  exact ⟨n, feedRun_eq_run h ▸ h⟩

/-- R110: a pass that goes on consumes at least two bytes. -/
theorem feedRun_passes_le {policy : NohdrPolicy} {n : Nat} {r r' : Reasm} (h : FeedRun policy n r r') :
    n ≤ r.rb.length / 2 + 1 := by
  induction h with
  | few | noHeader | noLen | partialFrame => omega
  | emits n r r' k len p h5 hk hlen hle hok _ ih => simp only [List.length_drop] at ih; omega
  | fails n r r' k len h5 hk hlen hle hbad _ ih =>
    have := headerAt_lt hk.1
    simp only [List.length_drop] at ih
    omega

/-- R112: every stop of the loop leaves the invariant. -/
theorem feedRun_bufInv {policy : NohdrPolicy} {n : Nat} {r r' : Reasm} (h : FeedRun policy n r r') : BufInv r'.rb := by
  induction h with
  | few r hlt => exact .inl (Nat.le_of_lt_succ hlt)
  | noHeader r h5 hno =>
    obtain h | ⟨h, _⟩ := keptTail_cases policy r.rb <;> exact .inl (by simp [h])
  | noLen r k h5 hk hlt => exact bufInv_drop_of_noLen hlt
  | partialFrame r k len h5 hk hlen hlt => exact bufInv_drop_of_partial hk hlen hlt
  | emits | fails => assumption

theorem run_bufInv (policy : NohdrPolicy) (r : Reasm) : BufInv (r.run policy).rb := by
  obtain ⟨n, h⟩ := feedRun_run policy r
  exact feedRun_bufInv h

/-- R111: an emission consumes at least five bytes. -/
theorem feedRun_emissions_le {policy : NohdrPolicy} {n : Nat} {r r' : Reasm} (h : FeedRun policy n r r') :
    5 * r'.out.length ≤ 5 * r.out.length + r.rb.length := by
  induction h with
  | few | noHeader | noLen | partialFrame => exact Nat.le_add_right _ _
  | emits n r r' k len p h5 hk hlen hle hok _ ih =>
    simp only [List.length_append, List.length_singleton, List.length_drop] at ih
    omega
  | fails n r r' k len h5 hk hlen hle hbad _ ih =>
    simp only [List.length_drop] at ih
    omega

/-! ### `FEED` on the state -/

/-- The registers the loop of a `FEED` starts from: the chunk appended, nothing emitted yet. -/
def State.loaded (s : State) (chunk : Bytes) : Reasm := ⟨s.rb ++ chunk, s.chkErr, s.rxPkt, []⟩

@[simp] theorem State.loaded_rb (s : State) (chunk : Bytes) : (s.loaded chunk).rb = s.rb ++ chunk := rfl
@[simp] theorem State.loaded_chkErr (s : State) (chunk : Bytes) : (s.loaded chunk).chkErr = s.chkErr := rfl
@[simp] theorem State.loaded_rxPkt (s : State) (chunk : Bytes) : (s.loaded chunk).rxPkt = s.rxPkt := rfl
@[simp] theorem State.loaded_out (s : State) (chunk : Bytes) : (s.loaded chunk).out = [] := rfl

/-- A `FEED` within the limit runs the loop from the loaded registers. -/
theorem exec_feed_run {chunk : Bytes} {s : State} (h : chunk.length ≤ s.par.chunkMax) :
    exec (.feed chunk) s = .next (feedEffect chunk ((s.loaded chunk).run s.par.nohdrPolicy) s) :=
  exec_feed_of_le h

end Sys2Proof.Machine

namespace Sys2Proof.Proofs

open Sys2Proof.Machine Sys2Proof.Safety

/-- Settles O32: the loop of the model is a run of the relation. -/
theorem feedFollowsThePseudocode : Obligations.FeedFollowsThePseudocode := by
  refine ⟨fun r hop => by rw [decodeRequest, hop]; rfl, fun chunk s => ⟨fun hlt => ?_, fun hle => ?_⟩⟩
  · rcases execFeed_cases chunk s with ⟨_, hf⟩ | ⟨hle, _⟩
    · exact hf
    · omega
  · obtain ⟨n, hrun⟩ := feedRun_run s.par.nohdrPolicy (s.loaded chunk)
    exact ⟨n, _, hrun, exec_feed_run hle⟩

/-- Settles O33: every run ends where the loop of the model does. -/
theorem everyLoopRunIsShortAndIsTheFeed : Obligations.EveryLoopRunIsShortAndIsTheFeed := by
  intro chunk s n r hle hrun
  have hpasses := feedRun_passes_le hrun
  rw [List.length_append] at hpasses
  rw [feedRun_eq_run hrun]
  exact ⟨hpasses, exec_feed_run hle⟩

/-- Settles O35: every exit of the loop leaves the invariant, and so does the empty buffer. -/
theorem bufferInvariantAfterFeedAndReset : Obligations.BufferInvariantAfterFeedAndReset := by
  refine ⟨fun chunk s t h => ?_, fun s rest hpending =>
    ⟨State.takeReset { s with pending := rest }, ?_, .inl (Nat.zero_le 4)⟩⟩
  · obtain ⟨_, rfl⟩ := exec_feed_next h
    exact run_bufInv _ _
  · rw [step, hpending]
    rfl

/-- Settles O37: the loop does nothing to a buffer that satisfies R112. -/
theorem emptyFeedIsNoOperation : Obligations.EmptyFeedIsNoOperation := by
  intro s hinv
  have hrun : (s.loaded []).run s.par.nohdrPolicy = s.loaded [] := run_of_bufInv (by simpa using hinv)
  rw [exec_feed_run (Nat.zero_le _), hrun]
  simp [feedEffect, State.loaded]

/-- Settles O38: the packets emitted take at least five bytes each. -/
theorem emissionBound : Obligations.EmissionBound := by
  intro chunk s hle
  obtain ⟨n, hrun⟩ := feedRun_run s.par.nohdrPolicy (s.loaded chunk)
  have hbound := feedRun_emissions_le hrun
  simp only [State.loaded_rb, State.loaded_out, List.length_append, List.length_nil] at hbound
  exact ⟨_, _, exec_feed_run hle, rfl, by omega⟩

/-- Settles O43: an incomplete candidate satisfies R112, so the loop leaves it. -/
theorem incompleteCandidateStalls : Obligations.IncompleteCandidateStalls := by
  intro chunk s len hle hh hlen hlt
  have hrun : (s.loaded chunk).run s.par.nohdrPolicy = s.loaded chunk := run_of_bufInv (bufInv_of_partial hh hlen hlt)
  rw [exec_feed_run hle, hrun]
  simp [feedEffect, State.loaded]

end Sys2Proof.Proofs

/-! # The header-sync state machine of R122 and the loop (spec/41_reassembler.md) -/

namespace Sys2Proof.Machine

open Sys2Proof.Safety

/-! ### Runs of the state machine -/

theorem Fsm.iterate_add (policy : NohdrPolicy) (m n : Nat) (f : Fsm) :
    f.iterate policy (m + n) = (f.iterate policy m).iterate policy n := by
  induction m generalizing f with
  | zero => rw [Nat.zero_add]; rfl
  | succ m ih => rw [Nat.add_right_comm]; exact ih (f.next policy)

theorem Fsm.iterate_of_done {f : Fsm} (h : f.at_ = .done) (policy : NohdrPolicy) (n : Nat) : f.iterate policy n = f := by
  induction n with
  | zero => rfl
  | succ n ih =>
    have hnext : f.next policy = f := by simp only [Fsm.next, h]
    rw [Fsm.iterate, hnext, ih]

/-- From `f` the machine reaches `DONE` with the registers `r`. -/
def Fsm.Ends (policy : NohdrPolicy) (f : Fsm) (r : Reasm) : Prop :=
  ∃ n, (f.iterate policy n).at_ = .done ∧ (f.iterate policy n).regs = r

section rows

variable {policy : NohdrPolicy} {r r' : Reasm} {chunk : Bytes} {total : Nat} {verdict : Except DecodeError Packet}

theorem Fsm.ends_of_next {f g : Fsm} (hnext : f.next policy = g) (h : g.Ends policy r') : f.Ends policy r' := by
  obtain ⟨n, hn⟩ := h
  subst hnext
  exact ⟨n + 1, hn⟩

theorem Fsm.ends_of_done : (Fsm.mk .done r chunk total verdict).Ends policy r := ⟨0, rfl, rfl⟩

/-- `CHECK5` to `DONE`. -/
theorem Fsm.ends_of_few (hlt : r.rb.length < 5) : (Fsm.mk .check5 r chunk total verdict).Ends policy r :=
  ends_of_next (if_pos hlt) ends_of_done

/-- `CHECK5` to `SEARCH`. -/
theorem Fsm.ends_of_search (h5 : 5 ≤ r.rb.length) (h : (Fsm.mk .search r chunk total verdict).Ends policy r') :
    (Fsm.mk .check5 r chunk total verdict).Ends policy r' :=
  ends_of_next (if_neg (Nat.not_lt_of_le h5)) h

/-- `SEARCH` to `DONE`. -/
theorem Fsm.ends_of_noHeader (hno : NoHeader r.rb) :
    (Fsm.mk .search r chunk total verdict).Ends policy { r with rb := keptTail policy r.rb } :=
  ends_of_next (by simp only [Fsm.next, (findHdr_eq_none_iff r.rb).mpr hno, noHeaderDiscard_eq_keptTail])
    (ends_of_done (chunk := chunk) (total := total) (verdict := verdict))

/-- `SEARCH` to `CHECK4`. -/
theorem Fsm.ends_of_firstHeader {k : Nat} (hk : FirstHeader r.rb k)
    (h : (Fsm.mk .check4 { r with rb := r.rb.drop k } chunk total verdict).Ends policy r') :
    (Fsm.mk .search r chunk total verdict).Ends policy r' :=
  ends_of_next (by simp only [Fsm.next, (findHdr_eq_some_iff r.rb k).mpr hk, bufDrop]) h

/-- `CHECK4` to `DONE`. -/
theorem Fsm.ends_of_noLen (hlt : r.rb.length < 4) : (Fsm.mk .check4 r chunk total verdict).Ends policy r :=
  ends_of_next (if_pos hlt) ends_of_done

/-- `CHECK4` to `CHECKLEN`. -/
theorem Fsm.ends_of_len {len : Byte} (hlen : r.rb[3]? = some len)
    (h : (Fsm.mk .checkLen r chunk (5 + len.toNat) verdict).Ends policy r') :
    (Fsm.mk .check4 r chunk total verdict).Ends policy r' := by
  have h3 := (List.getElem?_eq_some_iff.mp hlen).1
  rw [← lenField_of_len hlen] at h
  exact ends_of_next (if_neg (Nat.not_lt_of_le h3)) h

/-- `CHECKLEN` to `DONE`. -/
theorem Fsm.ends_of_partial (hlt : r.rb.length < total) : (Fsm.mk .checkLen r chunk total verdict).Ends policy r :=
  ends_of_next (if_pos hlt) ends_of_done

/-- `CHECKLEN` to `VALIDATE`. -/
theorem Fsm.ends_of_complete (hle : total ≤ r.rb.length)
    (h : (Fsm.mk .validate r chunk total (decodeResult (r.rb.take total))).Ends policy r') :
    (Fsm.mk .checkLen r chunk total verdict).Ends policy r' := by
  rw [← decodePacket_eq_decodeResult] at h
  exact ends_of_next (if_neg (Nat.not_lt_of_le hle)) h

/-- `VALIDATE` to `CHECK5`, success. -/
theorem Fsm.ends_of_ok {p : Packet} (h : (Fsm.mk .check5
      { r with rb := r.rb.drop total, rxPkt := satInc r.rxPkt, out := r.out ++ [p] } chunk total (.ok p)).Ends policy r') :
    (Fsm.mk .validate r chunk total (.ok p)).Ends policy r' :=
  ends_of_next rfl h

/-- `VALIDATE` to `CHECK5`, checksum failure. -/
theorem Fsm.ends_of_mismatch (h : (Fsm.mk .check5
      { r with rb := r.rb.drop 2, chkErr := satInc r.chkErr } chunk total (.error .checksumMismatch)).Ends policy r') :
    (Fsm.mk .validate r chunk total (.error .checksumMismatch)).Ends policy r' :=
  ends_of_next rfl h

end rows

/-- Every pass of the loop of R105 is a walk through the rows from `CHECK5` (R122). -/
theorem fsm_ends_of_feedRun {policy : NohdrPolicy} {n : Nat} {r r' : Reasm} (h : FeedRun policy n r r') (chunk : Bytes)
    (total : Nat) (verdict : Except DecodeError Packet) : (Fsm.mk .check5 r chunk total verdict).Ends policy r' := by
  induction h generalizing total verdict with
  | few r hlt => exact Fsm.ends_of_few hlt
  | noHeader r h5 hno => exact Fsm.ends_of_search h5 (Fsm.ends_of_noHeader hno)
  | noLen r k h5 hk hlt =>
    exact Fsm.ends_of_search h5 (Fsm.ends_of_firstHeader hk (Fsm.ends_of_noLen (by rwa [List.length_drop])))
  | partialFrame r k len h5 hk hlen hlt =>
    exact Fsm.ends_of_search h5 (Fsm.ends_of_firstHeader hk (Fsm.ends_of_len (List.getElem?_drop.trans hlen)
      (Fsm.ends_of_partial (by rwa [List.length_drop]))))
  | emits n r r' k len p h5 hk hlen hle hok _ ih =>
    refine Fsm.ends_of_search h5 (Fsm.ends_of_firstHeader hk (Fsm.ends_of_len (List.getElem?_drop.trans hlen)
      (Fsm.ends_of_complete (by rwa [List.length_drop]) ?_)))
    rw [hok]
    refine Fsm.ends_of_ok ?_
    rw [List.drop_drop]
    exact ih _ _
  | fails n r r' k len h5 hk hlen hle hbad _ ih =>
    refine Fsm.ends_of_search h5 (Fsm.ends_of_firstHeader hk (Fsm.ends_of_len (List.getElem?_drop.trans hlen)
      (Fsm.ends_of_complete (by rwa [List.length_drop]) ?_)))
    rw [hbad]
    refine Fsm.ends_of_mismatch ?_
    rw [List.drop_drop]
    exact ih _ _

/-- The machine started on a chunk ends in what the loop leaves. -/
theorem fsm_start_ends (policy : NohdrPolicy) (s : State) (chunk : Bytes) :
    (Fsm.start s.reasm chunk).Ends policy ((s.loaded chunk).run policy) := by
  obtain ⟨n, h⟩ := feedRun_run policy (s.loaded chunk)
  exact Fsm.ends_of_next rfl (fsm_ends_of_feedRun h chunk 0 (.error .incomplete))

/-! ### The buffer's length while the machine runs (R113) -/

theorem keptTail_length_le (policy : NohdrPolicy) (rb : Bytes) : (keptTail policy rb).length ≤ rb.length := by
  obtain h | ⟨h, hlast⟩ := keptTail_cases policy rb <;> rw [h]
  · exact Nat.zero_le _
  · exact List.length_pos_of_mem (List.mem_of_getLast? hlast)

/-- No row but `APPEND`'s lengthens the buffer, and no row leads back to `APPEND`. -/
theorem Fsm.next_shortens (policy : NohdrPolicy) {f : Fsm} (h : f.at_ ≠ .append) :
    (f.next policy).at_ ≠ .append ∧ (f.next policy).regs.rb.length ≤ f.regs.rb.length := by
  have hdrop : ∀ n, (bufDrop f.regs.rb n).length ≤ f.regs.rb.length := fun n =>
    (List.drop_sublist n f.regs.rb).length_le
  have hkept : (noHeaderDiscard policy f.regs.rb).length ≤ f.regs.rb.length :=
    noHeaderDiscard_eq_keptTail policy f.regs.rb ▸ keptTail_length_le policy f.regs.rb
  unfold Fsm.next
  split
  next hat => exact absurd hat h
  next => split <;> exact ⟨nofun, le_rfl⟩
  next =>
    split
    · exact ⟨nofun, hkept⟩
    · exact ⟨nofun, hdrop _⟩
  next => split <;> exact ⟨nofun, le_rfl⟩
  next => split <;> exact ⟨nofun, le_rfl⟩
  next =>
    split
    · exact ⟨nofun, hdrop _⟩
    · exact ⟨nofun, hdrop _⟩
    · exact ⟨nofun, le_rfl⟩
    · exact ⟨nofun, le_rfl⟩
  next => exact ⟨h, le_rfl⟩

theorem Fsm.iterate_length_le (policy : NohdrPolicy) (n : Nat) {f : Fsm} (h : f.at_ ≠ .append) :
    (f.iterate policy n).regs.rb.length ≤ f.regs.rb.length := by
  induction n generalizing f with
  | zero => exact le_rfl
  | succ n ih =>
    obtain ⟨hat, hle⟩ := f.next_shortens policy h
    exact (ih hat).trans hle

/-- R113: a buffer within the invariant holds at most 259 bytes. -/
theorem length_le_of_bufInv {rb : Bytes} (h : BufInv rb) : rb.length ≤ 259 := by
  obtain hle | ⟨_, _, len, _, hlt⟩ := h
  · omega
  · have := len.isLt
    omega

end Sys2Proof.Machine

namespace Sys2Proof.Proofs

open Sys2Proof.Machine Sys2Proof.Safety

/-- Settles O34: the machine walks through the passes of the loop, and stays in `DONE`. -/
theorem syncMachineComputesFeed : Obligations.SyncMachineComputesFeed := by
  intro chunk s hle
  obtain ⟨k, hdone, hregs⟩ := fsm_start_ends s.par.nohdrPolicy s chunk
  refine ⟨k, fun m hm => ?_⟩
  rw [← Nat.add_sub_cancel' hm, Fsm.iterate_add, Fsm.iterate_of_done hdone, hregs]
  exact ⟨hdone, exec_feed_run hle⟩

/-- Settles O36: the append is the only row that lengthens the buffer, from at most 259 bytes. -/
theorem bufferNeverExceedsCapacity : Obligations.BufferNeverExceedsCapacity := by
  intro chunk s hinv hle
  have h259 := length_le_of_bufInv hinv
  refine ⟨h259, fun m => ?_, _, exec_feed_run hle, length_le_of_bufInv (run_bufInv _ _)⟩
  cases m with
  | zero => exact h259.trans (Nat.le_add_right 259 s.par.chunkMax)
  | succ m =>
    calc ((Fsm.start s.reasm chunk).iterate s.par.nohdrPolicy (m + 1)).regs.rb.length
        ≤ (s.rb ++ chunk).length := Fsm.iterate_length_le s.par.nohdrPolicy m (f := (Fsm.start s.reasm chunk).next _) nofun
      _ ≤ s.par.bufCap := by rw [List.length_append, Params.bufCap]; omega

end Sys2Proof.Proofs

/-! # Accounting: where each byte that `FEED` takes goes (spec/41_reassembler.md R115, R116) -/

namespace Sys2Proof.Machine

open Sys2Proof.Safety

/-! ### Bytes at the front of a buffer -/

theorem eq_cons_cons_of_headerAt {s : Bytes} (h : HeaderAt s 0) : s = 0xAA#8 :: 0x55#8 :: s.drop 2 := by
  obtain ⟨h0, h1⟩ := h
  match s, h0, h1 with
  | _ :: _ :: _, rfl, rfl => rfl

/-- The candidate ends where its LEN byte says (steps 5 and 6 of R105). -/
theorem candidateFrame_of_len {s : Bytes} {len : Byte} (h : s[3]? = some len) : candidateFrame s = s.take (5 + len.toNat) := by
  rw [candidateFrame, List.getD_eq_getElem?_getD, h, Option.getD_some]

/-- A candidate that `DECODE` accepts is the frame of the packet it answers, and nothing more (R61, R108). -/
theorem candidate_eq_buildFrame {s : Bytes} {len : Byte} {p : Packet} (hlen : s[3]? = some len)
    (hle : 5 + len.toNat ≤ s.length) (hok : decodeResult (s.take (5 + len.toNat)) = .ok p) :
    p.payload.length ≤ 255 ∧ s.take (5 + len.toNat) = buildFrame p.cmd p.payload := by
  rw [← decodePacket_eq_decodeResult] at hok
  obtain ⟨hp, rest, heq⟩ := decodePacket_ok_frame hok
  have hlenP : len = BitVec.ofNat 8 p.payload.length := by
    have h3 : (s.take (5 + len.toNat))[3]? = some len := (List.getElem?_take_of_lt (by omega)).trans hlen
    rw [heq] at h3
    exact (Option.some.inj h3).symm
  have hrest : rest.length = 0 := by
    have hlength := congrArg List.length heq
    rw [List.length_take, List.length_append, buildFrame_length] at hlength
    have := toNat_lenByte hp
    rw [← hlenP] at this
    omega
  rw [List.length_eq_zero_iff.mp hrest, List.append_nil] at heq
  exact ⟨hp, heq⟩

/-! ### Splits of a stream, one stretch at a time -/

theorem accounts_nil (rest : Bytes) : Accounts rest rest [] [] := ⟨rfl, rfl, nofun⟩

theorem accounts_cons {stream rest : Bytes} {packets : List Packet} {segments : List Segment} (g : Segment)
    (hg : g.fits = true) (h : Accounts stream rest packets segments) :
    Accounts (g.bytes ++ stream) rest (g.packet.toList ++ packets) (g :: segments) := by
  obtain ⟨hstream, hpackets, hfits⟩ := h
  refine ⟨by rw [hstream, List.flatMap_cons, List.append_assoc], ?_, List.forall_mem_cons.mpr ⟨hg, hfits⟩⟩
  rw [hpackets, List.filterMap_cons]
  cases g.packet <;> rfl

theorem count_failedHeader_cons {g : Segment} {segments : List Segment} (h : g ≠ .failedHeader) :
    (g :: segments).count .failedHeader = segments.count .failedHeader := List.count_cons_of_ne h

/-- What a split leaves can be split on, behind bytes that arrived later. -/
theorem accounts_append {stream rest chunk rest' : Bytes} {packets packets' : List Packet} {segments segments' : List Segment}
    (h : Accounts stream rest packets segments) (h' : Accounts (rest ++ chunk) rest' packets' segments') :
    Accounts (stream ++ chunk) rest' (packets ++ packets') (segments ++ segments') := by
  obtain ⟨hstream, hpackets, hfits⟩ := h
  obtain ⟨hstream', hpackets', hfits'⟩ := h'
  refine ⟨?_, by rw [hpackets, hpackets', List.filterMap_append], List.forall_mem_append.mpr ⟨hfits, hfits'⟩⟩
  rw [hstream, List.append_assoc, hstream', List.flatMap_append, List.append_assoc]

theorem judged_cons {stream rest : Bytes} {packets : List Packet} {segments : List Segment} {g : Segment}
    (h : Accounts stream rest packets segments) (hg : g.judged (g.bytes ++ stream)) (hj : Judged rest segments) :
    Judged rest (g :: segments) := by
  refine ⟨?_, hj⟩
  rw [List.flatMap_cons, List.append_assoc, ← h.1]
  exact hg

/-! ### What a run of the loop accounts for -/

/-- From `r` to `r'` the buffer was split into judged stretches and what `r'` holds; the packets emitted are those of the frames,
and the counters count the frames and the failed candidates (R109, R115, R116). -/
def Reasm.Accounted (r r' : Reasm) : Prop :=
  ∃ out segments, r'.out = r.out ++ out ∧ Accounts r.rb r'.rb out segments ∧ Judged r'.rb segments ∧
    r'.rxPkt.toNat = min (r.rxPkt.toNat + out.length) (2 ^ 32 - 1) ∧
    r'.chkErr.toNat = min (r.chkErr.toNat + segments.count .failedHeader) (2 ^ 32 - 1)

section accounted

variable {r' : Reasm} {rb : Bytes} {c x : Word} {o : List Packet}

theorem Reasm.Accounted.refl (r : Reasm) : r.Accounted r := by
  refine ⟨[], [], (List.append_nil _).symm, accounts_nil r.rb, trivial, ?_, ?_⟩
  · have := r.rxPkt.isLt
    simp only [List.length_nil]
    omega
  · have := r.chkErr.isLt
    simp only [List.count_nil]
    omega

/-- Discarded bytes in front. -/
theorem Reasm.Accounted.junk {bytes : Bytes} (hno : ∀ j, j < bytes.length → ¬ HeaderAt (bytes ++ rb) j)
    (h : Reasm.Accounted ⟨rb, c, x, o⟩ r') : Reasm.Accounted ⟨bytes ++ rb, c, x, o⟩ r' := by
  obtain ⟨out, segments, hout, hacc, hj, hrx, hchk⟩ := h
  refine ⟨out, .junk bytes :: segments, hout, accounts_cons (.junk bytes) rfl hacc, judged_cons hacc hno hj, hrx, ?_⟩
  rw [count_failedHeader_cons (g := .junk bytes) nofun]
  exact hchk

/-- An emitted frame in front. -/
theorem Reasm.Accounted.frame {p : Packet} (hp : p.payload.length ≤ 255)
    (hok : decodeResult (candidateFrame (buildFrame p.cmd p.payload ++ rb)) = .ok p)
    (h : Reasm.Accounted ⟨rb, c, satInc x, o ++ [p]⟩ r') :
    Reasm.Accounted ⟨buildFrame p.cmd p.payload ++ rb, c, x, o⟩ r' := by
  obtain ⟨out, segments, hout, hacc, hj, hrx, hchk⟩ := h
  refine ⟨p :: out, .frame p :: segments, hout.trans (List.append_assoc o [p] out),
    accounts_cons (.frame p) (decide_eq_true hp) hacc, judged_cons hacc hok hj, ?_, ?_⟩
  · simp only [hrx, satInc_toNat, List.length_cons]
    omega
  · rw [count_failedHeader_cons (g := .frame p) nofun]
    exact hchk

/-- The header of a failed candidate in front. -/
theorem Reasm.Accounted.failedHeader
    (hbad : decodeResult (candidateFrame (0xAA#8 :: 0x55#8 :: rb)) = .error .checksumMismatch)
    (h : Reasm.Accounted ⟨rb, satInc c, x, o⟩ r') : Reasm.Accounted ⟨0xAA#8 :: 0x55#8 :: rb, c, x, o⟩ r' := by
  obtain ⟨out, segments, hout, hacc, hj, hrx, hchk⟩ := h
  refine ⟨out, .failedHeader :: segments, hout, accounts_cons .failedHeader rfl hacc, judged_cons hacc hbad hj, hrx, ?_⟩
  simp only [hchk, satInc_toNat, List.count_cons_self]
  omega

/-- The bytes in front of the first header are discarded (step 3 of R105). -/
theorem Reasm.Accounted.of_firstHeader {s : Bytes} {k : Nat} (hk : FirstHeader s k)
    (h : Reasm.Accounted ⟨s.drop k, c, x, o⟩ r') : Reasm.Accounted ⟨s, c, x, o⟩ r' := by
  have hsplit := List.take_append_drop k s
  rw [← hsplit]
  refine .junk (fun j hj => ?_) h
  rw [hsplit]
  exact hk.2 j (Nat.lt_of_lt_of_le hj (List.length_take_le k s))

end accounted

/-- The tail R107 keeps is the last byte of the buffer or nothing. -/
theorem keptTail_suffix (policy : NohdrPolicy) (rb : Bytes) : ∃ bytes, rb = bytes ++ keptTail policy rb := by
  obtain h | ⟨h, hlast⟩ := keptTail_cases policy rb <;> rw [h]
  · exact ⟨rb, (List.append_nil rb).symm⟩
  · exact ⟨rb.dropLast, (List.dropLast_append_getLast? _ hlast).symm⟩

theorem feedRun_accounted {policy : NohdrPolicy} {n : Nat} {r r' : Reasm} (h : FeedRun policy n r r') : r.Accounted r' := by
  induction h with
  | few r _ => exact .refl r
  | noHeader r h5 hno =>
    obtain ⟨bytes, hsplit⟩ := keptTail_suffix policy r.rb
    have hjunk := Reasm.Accounted.junk (fun j _ => hsplit ▸ hno j) (.refl { r with rb := keptTail policy r.rb })
    rwa [← hsplit] at hjunk
  | noLen r k _ hk _ => exact .of_firstHeader hk (.refl _)
  | partialFrame r k len _ hk _ _ => exact .of_firstHeader hk (.refl _)
  | emits n r r' k len p h5 hk hlen hle hok _ ih =>
    have hlen' : (r.rb.drop k)[3]? = some len := List.getElem?_drop.trans hlen
    have hle' : 5 + len.toNat ≤ (r.rb.drop k).length := by rwa [List.length_drop]
    obtain ⟨hp, hframe⟩ := candidate_eq_buildFrame hlen' hle' hok
    have hsplit : buildFrame p.cmd p.payload ++ r.rb.drop (k + (5 + len.toNat)) = r.rb.drop k := by
      rw [← hframe, ← List.drop_drop, List.take_append_drop]
    refine .of_firstHeader hk ?_
    rw [← hsplit]
    refine .frame hp ?_ ih
    rw [hsplit, candidateFrame_of_len hlen', hok]
  | fails n r r' k len h5 hk hlen hle hbad _ ih =>
    have hlen' : (r.rb.drop k)[3]? = some len := List.getElem?_drop.trans hlen
    have hsplit : r.rb.drop k = 0xAA#8 :: 0x55#8 :: r.rb.drop (k + 2) := by
      rw [← List.drop_drop]
      exact eq_cons_cons_of_headerAt (headerAt_drop hk.1)
    refine .of_firstHeader hk ?_
    rw [hsplit]
    refine .failedHeader ?_ ih
    rw [← hsplit, candidateFrame_of_len hlen', hbad]

theorem run_accounted (policy : NohdrPolicy) (r : Reasm) : r.Accounted (r.run policy) := by
  obtain ⟨n, h⟩ := feedRun_run policy r
  exact feedRun_accounted h

/-! ### The invariant of the machine, one lemma per update -/

/-- Taking an event off the queue touches nothing the invariant is about. -/
theorem inv_setPending {s : State} (h : Inv s) (rest : List Event) : Inv { s with pending := rest } :=
  ⟨h.legal, h.buffer, h.txs, h.pkts, h.built, h.stream⟩

/-- `RESET` discards what RB held (R163). -/
theorem inv_takeReset {s : State} (h : Inv s) : Inv s.takeReset where
  legal := h.legal
  buffer := .inl (Nat.zero_le 4)
  txs := h.txs
  pkts := h.pkts
  built := h.built
  stream := by
    obtain ⟨segments, hacc⟩ := h.stream
    have hreset := accounts_append (chunk := []) hacc (accounts_cons (.junk s.rb) rfl (accounts_nil []))
    have hpkts : s.pkts ++ ((Segment.junk s.rb).packet.toList ++ []) = s.pkts := List.append_nil s.pkts
    rw [List.append_nil, hpkts] at hreset
    exact ⟨_, hreset⟩

/-- A result that carries neither a frame nor packets. -/
theorem inv_respond {s : State} {r : Response} (h : Inv s) (hframe : ∀ f, r ≠ .encoded (.ok f))
    (hpackets : returnedPackets r = []) : Inv (s.respond r) where
  legal := h.legal
  buffer := h.buffer
  txs := by
    have hnone : returnedFrame r = [] := by
      unfold returnedFrame
      split
      next f => exact absurd rfl (hframe f)
      all_goals rfl
    simp [h.txs, hnone]
  pkts := by simp [h.pkts, hpackets]
  built := fun f hf => by
    rw [State.respond_results, List.mem_append, List.mem_singleton] at hf
    exact hf.elim (h.built f) fun heq => absurd heq.symm (hframe f)
  stream := h.stream

/-- `ENCODE` appends the frame it returns (R46, R63). -/
theorem inv_sendFrame {s : State} (h : Inv s) (cmd : Byte) (payload : Bytes) : Inv (sendFrame cmd payload s) := by
  rcases sendFrame_cases cmd payload s with ⟨_, hs⟩ | ⟨hp, hs⟩ <;> rw [hs]
  · exact inv_respond h nofun rfl
  · refine ⟨h.legal, h.buffer, ?_, ?_, fun f hf => ?_, h.stream⟩
    · simp [h.txs, returnedFrame]
    · simp [h.pkts, returnedPackets]
    · rw [State.respond_results, List.mem_append, List.mem_singleton] at hf
      obtain hf | hf := hf
      · exact h.built f hf
      · cases hf
        exact ⟨cmd, payload, hp, rfl⟩

/-- `FEED` appends the packets it returns and accounts for the chunk (R112, R115, R116). -/
theorem inv_feedEffect {s : State} (h : Inv s) (policy : NohdrPolicy) (chunk : Bytes) :
    Inv (feedEffect chunk ((s.loaded chunk).run policy) s) where
  legal := h.legal
  buffer := run_bufInv policy (s.loaded chunk)
  txs := by simp [feedEffect, h.txs, returnedFrame]
  pkts := by simp [feedEffect, h.pkts, returnedPackets]
  built := fun f hf => by
    simp only [feedEffect, List.mem_append, List.mem_singleton, reduceCtorEq, or_false] at hf
    exact h.built f hf
  stream := by
    obtain ⟨segments, hacc⟩ := h.stream
    obtain ⟨out, segments', hout, hacc', _⟩ := run_accounted policy (s.loaded chunk)
    rw [State.loaded_out, List.nil_append] at hout
    rw [← hout] at hacc'
    exact ⟨segments ++ segments', accounts_append hacc hacc'⟩

theorem inv_exec {i : Instr} {s t : State} (hs : Inv s) (h : exec i s = .next t) : Inv t := by
  obtain ⟨cmd, payload, _, rfl⟩ | ⟨buf, _, _, rfl⟩ | ⟨idx, _, rfl⟩ | ⟨chunk, _, _, rfl⟩ := exec_next_cases h
  · exact inv_sendFrame hs cmd payload
  · exact inv_respond hs nofun rfl
  · exact inv_respond hs nofun rfl
  · exact inv_feedEffect hs s.par.nohdrPolicy chunk

end Sys2Proof.Machine

namespace Sys2Proof.Proofs

open Sys2Proof.Machine Sys2Proof.Safety

/-- Settles O39: each pass of the loop accounts for the bytes it takes off the front. -/
theorem feedAccountsForEveryByte : Obligations.FeedAccountsForEveryByte := by
  intro chunk s hle
  obtain ⟨out, segments, hout, hacc, hjudged, hrx, hchk⟩ := run_accounted s.par.nohdrPolicy (s.loaded chunk)
  rw [State.loaded_out, List.nil_append] at hout
  subst hout
  exact ⟨_, _, segments, exec_feed_run hle, rfl, rfl, hacc, hjudged, hrx, hchk⟩

/-- Settles O51: a step is idle, a `RESET` or an instruction, and each keeps the invariant. -/
theorem everyStepKeepsTheInvariant : Obligations.EveryStepKeepsTheInvariant := by
  intro s t hs h
  obtain ⟨_, rfl⟩ | ⟨rest, _, rfl⟩ | ⟨e, rest, i, _, _, hi⟩ := step_next_cases h
  · exact hs
  · exact inv_takeReset (inv_setPending hs rest)
  · exact inv_exec (inv_setPending hs rest) hi

end Sys2Proof.Proofs

/-! # Chunking and noise: what sequences of `FEED`s emit (spec/41_reassembler.md R117, R118, R121) -/

namespace Sys2Proof.Machine

open Sys2Proof.Safety

/-! ### The registers as one `FEED` after another sees them -/

/-- Bytes appended to RB. -/
def Reasm.push (r : Reasm) (bytes : Bytes) : Reasm := { r with rb := r.rb ++ bytes }

@[simp] theorem Reasm.push_rb (r : Reasm) (bytes : Bytes) : (r.push bytes).rb = r.rb ++ bytes := rfl

@[simp] theorem Reasm.push_nil (r : Reasm) : r.push [] = r := by simp [Reasm.push]

theorem Reasm.push_push (r : Reasm) (a b : Bytes) : (r.push a).push b = r.push (a ++ b) := by simp [Reasm.push]

/-- The registers with packets emitted before. -/
def Reasm.behind (packets : List Packet) (r : Reasm) : Reasm := { r with out := packets ++ r.out }

/-- The loop never reads the packets it has emitted. -/
theorem feedRun_behind {policy : NohdrPolicy} {n : Nat} {r r' : Reasm} (packets : List Packet) (h : FeedRun policy n r r') :
    FeedRun policy n (r.behind packets) (r'.behind packets) := by
  induction h with
  | few r hlt => exact .few _ hlt
  | noHeader r h5 hno => exact .noHeader _ h5 hno
  | noLen r k h5 hk hlt => exact .noLen _ k h5 hk hlt
  | partialFrame r k len h5 hk hlen hlt => exact .partialFrame _ k len h5 hk hlen hlt
  | emits n r r' k len p h5 hk hlen hle hok _ ih =>
    refine .emits n _ _ k len p h5 hk hlen hle hok ?_
    simpa only [Reasm.behind, List.append_assoc] using ih
  | fails n r r' k len h5 hk hlen hle hbad _ ih => exact .fails n _ _ k len h5 hk hlen hle hbad ih

theorem run_behind (policy : NohdrPolicy) (packets : List Packet) (r : Reasm) :
    (r.behind packets).run policy = (r.run policy).behind packets := by
  obtain ⟨n, h⟩ := feedRun_run policy r
  exact (feedRun_eq_run (feedRun_behind packets h)).symm

/-- RB and the counters, with PKTS as the packets emitted. -/
def State.view (s : State) : Reasm := ⟨s.rb, s.chkErr, s.rxPkt, s.pkts⟩

@[simp] theorem State.view_rb (s : State) : s.view.rb = s.rb := rfl
@[simp] theorem State.view_chkErr (s : State) : s.view.chkErr = s.chkErr := rfl
@[simp] theorem State.view_rxPkt (s : State) : s.view.rxPkt = s.rxPkt := rfl
@[simp] theorem State.view_out (s : State) : s.view.out = s.pkts := rfl

/-- `FEED` appends the chunk and runs the loop, on PKTS and the registers alike. -/
theorem exec_feed_view {chunk : Bytes} {s : State} (h : chunk.length ≤ s.par.chunkMax) :
    ∃ t, exec (.feed chunk) s = .next t ∧ t.par = s.par ∧ t.view = (s.view.push chunk).run s.par.nohdrPolicy := by
  refine ⟨_, exec_feed_run h, rfl, ?_⟩
  have hload : s.view.push chunk = (s.loaded chunk).behind s.pkts := by
    simp [Reasm.push, Reasm.behind, State.view, State.loaded]
  rw [hload, run_behind]
  rfl

/-- The registers after chunks fed one after another. -/
def Reasm.feedChunks (policy : NohdrPolicy) : List Bytes → Reasm → Reasm
  | [], r => r
  | c :: cs, r => Reasm.feedChunks policy cs ((r.push c).run policy)

theorem feedAll_view {chunks : List Bytes} {s : State} (h : ∀ c ∈ chunks, c.length ≤ s.par.chunkMax) :
    ∃ t, feedAll chunks s = .next t ∧ t.view = s.view.feedChunks s.par.nohdrPolicy chunks := by
  induction chunks generalizing s with
  | nil => exact ⟨s, rfl, rfl⟩
  | cons c cs ih =>
    obtain ⟨hc, hcs⟩ := List.forall_mem_cons.mp h
    obtain ⟨u, hu, hpar, hview⟩ := exec_feed_view hc
    obtain ⟨t, ht, htview⟩ := ih (s := u) (hpar ▸ hcs)
    refine ⟨t, ?_, ?_⟩
    · rw [feedAll, hu]
      exact ht
    · rw [htview, hpar, hview]
      rfl

/-! ### Frames at the front of the buffer, and noise before them (R117) -/

/-- A frame at the front is emitted and consumed, and the loop goes on behind it. -/
theorem run_of_frame (policy : NohdrPolicy) {r : Reasm} {p : Packet} {rest : Bytes} (hp : p.payload.length ≤ 255)
    (hrb : r.rb = buildFrame p.cmd p.payload ++ rest) :
    r.run policy = Reasm.run policy { r with rb := rest, rxPkt := satInc r.rxPkt, out := r.out ++ [p] } := by
  have hpass := pass_of_frame policy r p.cmd p.payload rest hp
  rw [← hrb] at hpass
  rw [run_unfold, hpass]
  rfl

theorem headerAt_append_iff {s : Bytes} {k : Nat} (h : k + 1 < s.length) (c : Bytes) : HeaderAt (s ++ c) k ↔ HeaderAt s k := by
  rw [HeaderAt, List.getElem?_append_left (by omega), List.getElem?_append_left h, HeaderAt]

theorem headerAt_append_right (s t : Bytes) (k : Nat) : HeaderAt (s ++ t) (s.length + k) ↔ HeaderAt t k := by
  rw [HeaderAt, Nat.add_assoc, List.getElem?_append_right (Nat.le_add_right _ _),
    List.getElem?_append_right (Nat.le_add_right _ _), Nat.add_sub_cancel_left, Nat.add_sub_cancel_left, HeaderAt]

/-- A header that is first in a buffer is first in every extension of it (R118). -/
theorem firstHeader_append {s : Bytes} {k : Nat} (h : FirstHeader s k) (c : Bytes) : FirstHeader (s ++ c) k := by
  have hk := headerAt_lt h.1
  exact ⟨(headerAt_append_iff hk c).mpr h.1, fun j hj hat => h.2 j hj ((headerAt_append_iff (by omega) c).mp hat)⟩

/-- Noise without a header, even one that ends in `AA`, leaves the frame's header the first one. -/
theorem firstHeader_noise {noise : Bytes} (hno : NoHeader noise) (cmd : Byte) (payload : Bytes) :
    FirstHeader (noise ++ buildFrame cmd payload) noise.length := by
  constructor
  · exact (headerAt_append_right noise _ 0).mpr (headerAt_buildFrame cmd payload)
  · intro j hj hat
    by_cases hlast : j + 1 < noise.length
    · exact hno j ((headerAt_append_iff hlast _).mp hat)
    · have h1 := hat.2
      rw [show j + 1 = noise.length + 0 by omega, List.getElem?_append_right (Nat.le_add_right _ _), Nat.add_sub_cancel_left,
        (headerAt_buildFrame cmd payload).1] at h1
      cases h1

theorem run_of_noise_frame (policy : NohdrPolicy) {r : Reasm} {noise : Bytes} {p : Packet} (hno : NoHeader noise)
    (hp : p.payload.length ≤ 255) (hrb : r.rb = noise ++ buildFrame p.cmd p.payload) :
    r.run policy = { r with rb := [], rxPkt := satInc r.rxPkt, out := r.out ++ [p] } := by
  have h5 : 5 ≤ r.rb.length := by rw [hrb, List.length_append, buildFrame_length]; omega
  have hdrop : r.rb.drop noise.length = buildFrame p.cmd p.payload ++ [] := by rw [hrb, List.drop_left, List.append_nil]
  rw [run_drop_firstHeader h5 (hrb ▸ firstHeader_noise hno p.cmd p.payload), run_of_frame policy hp hdrop]
  exact run_of_few policy _ (Nat.succ_pos 4)

/-! ### A stream of valid frames, cut anywhere (R117) -/

/-- The stream of the frames of some packets. -/
def framesOf (packets : List Packet) : Bytes := packets.flatMap fun p => buildFrame p.cmd p.payload

theorem framesOf_cons (p : Packet) (ps : List Packet) : framesOf (p :: ps) = buildFrame p.cmd p.payload ++ framesOf ps := rfl

/-- A buffer that holds a whole frame at its front does not satisfy R112. -/
theorem not_bufInv_of_frame {cmd : Byte} {payload : Bytes} (hp : payload.length ≤ 255) (rest : Bytes) :
    ¬ BufInv (buildFrame cmd payload ++ rest) := by
  intro h
  have hlength : (buildFrame cmd payload ++ rest).length = 5 + payload.length + rest.length := by simp
  obtain ⟨len, hlen, hlt⟩ := incomplete_of_bufInv h (by omega)
  have hLEN : len = BitVec.ofNat 8 payload.length := (Option.some.inj hlen).symm
  rw [hLEN, toNat_lenByte hp] at hlt
  omega

/-- A buffer that holds only the beginning of a frame satisfies R112. -/
theorem bufInv_of_prefix {cmd : Byte} {payload rb : Bytes} (hp : payload.length ≤ 255) (hpre : rb <+: buildFrame cmd payload)
    (hlt : rb.length < 5 + payload.length) : BufInv rb := by
  by_cases h4 : rb.length ≤ 4
  · exact .inl h4
  have hget : ∀ i, i < 5 → rb[i]? = (buildFrame cmd payload)[i]? := by
    obtain ⟨tail, heq⟩ := hpre
    intro i hi
    rw [← heq, List.getElem?_append_left (by omega)]
  have hh : HeaderAt rb 0 :=
    ⟨(hget 0 (by omega)).trans (headerAt_buildFrame cmd payload).1,
      (hget 1 (by omega)).trans (headerAt_buildFrame cmd payload).2⟩
  exact bufInv_of_partial hh ((hget 3 (by omega)).trans (buildFrame_getElem?_len cmd payload)) (by rwa [toNat_lenByte hp])

/-- On a beginning of such a stream the loop emits the frames that are complete and keeps the beginning of the next. -/
theorem run_of_framesOf (policy : NohdrPolicy) {packets : List Packet} (hfit : ∀ p ∈ packets, p.payload.length ≤ 255)
    {r : Reasm} {rest : Bytes} (hrb : r.rb ++ rest = framesOf packets) :
    ∃ done left, packets = done ++ left ∧ (r.run policy).out = r.out ++ done ∧ (r.run policy).chkErr = r.chkErr ∧
      (r.run policy).rb ++ rest = framesOf left := by
  induction packets generalizing r with
  | nil =>
    have hnil : r.rb = [] := (List.append_eq_nil_iff.mp hrb).1
    rw [run_of_bufInv (.inl (by simp [hnil]))]
    exact ⟨[], [], rfl, (List.append_nil _).symm, rfl, hrb⟩
  | cons p ps ih =>
    obtain ⟨hp, hps⟩ := List.forall_mem_cons.mp hfit
    rw [framesOf_cons] at hrb
    by_cases hcomplete : (buildFrame p.cmd p.payload).length ≤ r.rb.length
    · obtain ⟨rb', hrb'⟩ :=
        List.prefix_of_prefix_length_le (hrb ▸ List.prefix_append _ _) (List.prefix_append r.rb rest) hcomplete
      rw [← hrb', List.append_assoc, List.append_cancel_left_eq] at hrb
      obtain ⟨done, left, hsplit, hout, hchk, hleft⟩ :=
        ih hps (r := { r with rb := rb', rxPkt := satInc r.rxPkt, out := r.out ++ [p] }) hrb
      rw [run_of_frame policy hp hrb'.symm]
      exact ⟨p :: done, left, congrArg (p :: ·) hsplit, hout.trans (List.append_assoc _ _ _), hchk, hleft⟩
    · rw [buildFrame_length] at hcomplete
      have hpre : r.rb <+: buildFrame p.cmd p.payload :=
        List.prefix_of_prefix_length_le (hrb ▸ List.prefix_append r.rb rest) (List.prefix_append _ _)
          (by rw [buildFrame_length]; omega)
      rw [run_of_bufInv (bufInv_of_prefix hp hpre (by omega))]
      exact ⟨[], p :: ps, rfl, (List.append_nil _).symm, rfl, hrb⟩

/-- Whatever the cuts, the frames of a valid stream are emitted to the last. -/
theorem feedChunks_of_framesOf (policy : NohdrPolicy) {chunks : List Bytes} {packets : List Packet}
    (hfit : ∀ p ∈ packets, p.payload.length ≤ 255) {r : Reasm} (hinv : BufInv r.rb)
    (hrb : r.rb ++ chunks.flatten = framesOf packets) :
    (r.feedChunks policy chunks).out = r.out ++ packets ∧ (r.feedChunks policy chunks).rb = [] ∧
      (r.feedChunks policy chunks).chkErr = r.chkErr := by
  induction chunks generalizing packets r with
  | nil =>
    rw [List.flatten_nil, List.append_nil] at hrb
    cases packets with
    | nil => exact ⟨(List.append_nil _).symm, hrb, rfl⟩
    | cons p ps =>
      rw [hrb, framesOf_cons] at hinv
      exact absurd hinv (not_bufInv_of_frame (hfit p List.mem_cons_self) _)
  | cons c cs ih =>
    rw [List.flatten_cons, ← List.append_assoc] at hrb
    obtain ⟨done, left, rfl, hout, hchk, hleft⟩ := run_of_framesOf policy hfit (r := r.push c) hrb
    obtain ⟨hout', hrb', hchk'⟩ := ih (fun p hp => hfit p (List.mem_append_right done hp)) (run_bufInv policy _) hleft
    refine ⟨?_, hrb', hchk'.trans hchk⟩
    rw [Reasm.feedChunks, hout', hout, List.append_assoc]
    rfl

/-! ### A frame with a wrong checksum byte (R121) -/

theorem decodeResult_wrong_checksum {cmd wrong : Byte} {payload : Bytes} (hp : payload.length ≤ 255)
    (hwrong : wrong ≠ xorFold (frameBody cmd payload)) :
    decodeResult (frameBody cmd payload ++ [wrong]) = .error .checksumMismatch := by
  have hlength : (frameBody cmd payload ++ [wrong]).length = 5 + payload.length := by simp; omega
  have hsum : xorFold (frameBody cmd payload ++ [wrong]) ≠ 0#8 := by
    rw [xorFold_append, xorFold_cons, xorFold_nil, BitVec.xor_zero, Ne, BitVec.xor_eq_zero_iff]
    exact hwrong.symm
  rw [← decodePacket_eq_decodeResult, decodePacket_of_headerAt (len := BitVec.ofNat 8 payload.length) ⟨rfl, rfl⟩ rfl,
    toNat_lenByte hp, if_neg (by omega), ← hlength, List.take_length, if_neg hsum]

/-- The loop counts such a frame and searches on behind its header. -/
theorem run_of_wrong_checksum (policy : NohdrPolicy) {r : Reasm} {cmd wrong : Byte} {payload rest : Bytes}
    (hp : payload.length ≤ 255) (hwrong : wrong ≠ xorFold (frameBody cmd payload))
    (hrb : r.rb = frameBody cmd payload ++ [wrong] ++ rest) :
    r.run policy = Reasm.run policy
      { r with rb := (frameBody cmd payload ++ [wrong]).drop 2 ++ rest, chkErr := satInc r.chkErr } := by
  have hlength : (frameBody cmd payload ++ [wrong]).length = 5 + payload.length := by simp; omega
  have hdrop : r.rb.drop 2 = (frameBody cmd payload ++ [wrong]).drop 2 ++ rest := by
    rw [hrb, List.drop_append_of_le_length (by omega)]
  rw [← hdrop]
  refine run_of_mismatch (len := BitVec.ofNat 8 payload.length) (hrb ▸ ⟨rfl, rfl⟩) (hrb ▸ rfl) ?_ ?_
  · rw [hrb, List.length_append, toNat_lenByte hp]
    omega
  · rw [hrb, toNat_lenByte hp, ← hlength, List.take_left]
    exact decodeResult_wrong_checksum hp hwrong

/-! ### `KEEP_TAIL_AA`: the buffer up to the bytes no header can start in (R118) -/

/-- The buffer from the first header on, or from a last `AA`, which the next chunk may make a header. -/
def skipJunk : Bytes → Bytes
  | [] => []
  | a :: s => if hasHeader (a :: s) = true ∨ a :: s = [0xAA#8] then a :: s else skipJunk s

theorem skipJunk_of_headerAt {s : Bytes} (h : HeaderAt s 0) : skipJunk s = s := by
  cases s with
  | nil => rfl
  | cons a s => exact if_pos (.inl ((hasHeader_iff _).mpr h))

theorem skipJunk_cons {a : Byte} {s : Bytes} (h : ¬ HeaderAt (a :: s) 0) (hAA : a :: s ≠ [0xAA#8]) :
    skipJunk (a :: s) = skipJunk s :=
  if_neg fun hor => hor.elim (fun hh => h ((hasHeader_iff _).mp hh)) hAA

theorem skipJunk_length_le (s : Bytes) : (skipJunk s).length ≤ s.length := by
  induction s with
  | nil => exact le_rfl
  | cons a s ih =>
    unfold skipJunk
    split
    · exact le_rfl
    · exact ih.trans (Nat.le_succ _)

/-- What is skipped stays skipped whatever arrives later. -/
theorem skipJunk_append (s c : Bytes) : skipJunk (skipJunk s ++ c) = skipJunk (s ++ c) := by
  induction s with
  | nil => rfl
  | cons a s ih =>
    by_cases hkeep : HeaderAt (a :: s) 0 ∨ a :: s = [0xAA#8]
    · rw [show skipJunk (a :: s) = a :: s from if_pos (hkeep.imp_left (hasHeader_iff _).mpr)]
    · obtain ⟨hh, hAA⟩ := not_or.mp hkeep
      have hh' : ¬ HeaderAt (a :: (s ++ c)) 0 := by
        cases s with
        | nil => exact fun hat => hAA (by rw [Option.some.inj hat.1])
        | cons b s => exact fun hat => hh ((headerAt_append_iff (s := a :: b :: s) (by simp) c).mp hat)
      have hAA' : a :: (s ++ c) ≠ [0xAA#8] := by
        intro heq
        obtain ⟨rfl, hnil⟩ := List.cons.inj heq
        exact hAA (by rw [(List.append_eq_nil_iff.mp hnil).1])
      rw [skipJunk_cons hh hAA, ih, List.cons_append, skipJunk_cons hh' hAA']

theorem skipJunk_idem (s : Bytes) : skipJunk (skipJunk s) = skipJunk s := by
  simpa only [List.append_nil] using skipJunk_append s []

/-- Step 3 drops what is skipped. -/
theorem skipJunk_of_firstHeader {s : Bytes} {k : Nat} (h : FirstHeader s k) : skipJunk s = s.drop k := by
  induction k generalizing s with
  | zero => exact skipJunk_of_headerAt h.1
  | succ k ih =>
    cases s with
    | nil => rfl
    | cons a s =>
      have hlen := headerAt_lt h.1
      have hs : FirstHeader s k := ⟨h.1, fun j hj hat => h.2 (j + 1) (by omega) hat⟩
      rw [skipJunk_cons (h.2 0 (Nat.succ_pos k)) (fun heq => by rw [heq] at hlen; simp at hlen), ih hs, List.drop_succ_cons]

/-- So does the discard of `KEEP_TAIL_AA`. -/
theorem skipJunk_of_noHeader {s : Bytes} (h : NoHeader s) : skipJunk s = keptTail .keepTailAA s := by
  induction s with
  | nil => rfl
  | cons a s ih =>
    by_cases hAA : a :: s = [0xAA#8]
    · rw [hAA]
      decide
    · have hs : NoHeader s := fun j hat => h (j + 1) hat
      rw [skipJunk_cons (h 0) hAA, ih hs]
      cases s with
      | nil =>
        have ha : ¬ a = 0xAA#8 := fun heq => hAA (by rw [heq])
        simp [keptTail, ha]
      | cons b s => simp [keptTail]

/-- The registers with the buffer's junk skipped. -/
def Reasm.trimmed (r : Reasm) : Reasm := { r with rb := skipJunk r.rb }

theorem Reasm.trimmed_push (r : Reasm) (c : Bytes) : (r.trimmed.push c).trimmed = (r.push c).trimmed := by
  simp only [Reasm.trimmed, Reasm.push, skipJunk_append]

theorem Reasm.trimmed_trimmed (r : Reasm) : r.trimmed.trimmed = r.trimmed := by simp only [Reasm.trimmed, skipJunk_idem]

/-- Junk makes no difference to what the loop does, but for junk that it leaves. -/
theorem run_trimmed (r : Reasm) : (r.trimmed.run .keepTailAA).trimmed = (r.run .keepTailAA).trimmed := by
  by_cases h5 : r.rb.length < 5
  · have h5' : r.trimmed.rb.length < 5 := Nat.lt_of_le_of_lt (skipJunk_length_le r.rb) h5
    rw [run_of_few _ _ h5, run_of_few _ _ h5', Reasm.trimmed_trimmed]
  · obtain hno | ⟨k, hk⟩ := noHeader_or_firstHeader r.rb
    · have hrun : r.run .keepTailAA = r.trimmed := by
        rw [run_of_noHeader (by omega) hno, Reasm.trimmed, skipJunk_of_noHeader hno]
      have hinv : BufInv r.trimmed.rb := hrun ▸ run_bufInv .keepTailAA r
      rw [hrun, run_of_bufInv hinv]
    · have hdrop : r.trimmed = { r with rb := r.rb.drop k } := by rw [Reasm.trimmed, skipJunk_of_firstHeader hk]
      rw [run_drop_firstHeader (by omega) hk, hdrop]

/-- A complete candidate is the same one in every extension of the buffer (R118). -/
theorem candidate_append {s : Bytes} {k : Nat} {len : Byte} (hk : FirstHeader s k) (hlen : s[k + 3]? = some len)
    (hle : 5 + len.toNat ≤ s.length - k) (c : Bytes) :
    5 ≤ (s ++ c).length ∧ FirstHeader (s ++ c) k ∧ (s ++ c)[k + 3]? = some len ∧ 5 + len.toNat ≤ (s ++ c).length - k ∧
      ((s ++ c).drop k).take (5 + len.toNat) = (s.drop k).take (5 + len.toNat) := by
  have hk' := headerAt_lt hk.1
  rw [List.length_append, List.drop_append_of_le_length (by omega), List.take_append_of_le_length (by rwa [List.length_drop]),
    List.getElem?_append_left (by omega)]
  exact ⟨by omega, firstHeader_append hk c, hlen, by omega, rfl⟩

theorem run_trimmed_push (r : Reasm) (c : Bytes) :
    ((r.trimmed.push c).run .keepTailAA).trimmed = ((r.push c).run .keepTailAA).trimmed := by
  rw [← run_trimmed, Reasm.trimmed_push, run_trimmed]

/-- The loop may stop at any time and go on when more bytes have arrived (R118's argument for `KEEP_TAIL_AA`). -/
theorem feedRun_push {n : Nat} {r r' : Reasm} (h : FeedRun .keepTailAA n r r') (c : Bytes) :
    ((r'.push c).run .keepTailAA).trimmed = ((r.push c).run .keepTailAA).trimmed := by
  induction h with
  | few => rfl
  | noHeader r _ hno =>
    rw [← skipJunk_of_noHeader hno]
    exact run_trimmed_push r c
  | noLen r k _ hk _ =>
    rw [← skipJunk_of_firstHeader hk]
    exact run_trimmed_push r c
  | partialFrame r k len _ hk _ _ =>
    rw [← skipJunk_of_firstHeader hk]
    exact run_trimmed_push r c
  | emits n r r' k len p h5 hk hlen hle hok _ ih =>
    obtain ⟨h5', hk', hlen', hle', hcand⟩ := candidate_append hk hlen hle c
    obtain ⟨m, hm⟩ := feedRun_run .keepTailAA (Reasm.push
      { r with rb := r.rb.drop (k + (5 + len.toNat)), rxPkt := satInc r.rxPkt, out := r.out ++ [p] } c)
    rw [ih]
    refine congrArg Reasm.trimmed (feedRun_eq_run (.emits m (r.push c) _ k len p h5' hk' hlen' hle' (hcand ▸ hok) ?_))
    rwa [Reasm.push_rb, List.drop_append_of_le_length (by omega)]
  | fails n r r' k len h5 hk hlen hle hbad _ ih =>
    obtain ⟨h5', hk', hlen', hle', hcand⟩ := candidate_append hk hlen hle c
    obtain ⟨m, hm⟩ := feedRun_run .keepTailAA (Reasm.push { r with rb := r.rb.drop (k + 2), chkErr := satInc r.chkErr } c)
    rw [ih]
    refine congrArg Reasm.trimmed (feedRun_eq_run (.fails m (r.push c) _ k len h5' hk' hlen' hle' (hcand ▸ hbad) ?_))
    rwa [Reasm.push_rb, List.drop_append_of_le_length (by omega)]

/-- Chunks fed one after another do what the same bytes do in one chunk. -/
theorem feedChunks_trimmed {r : Reasm} (hinv : BufInv r.rb) (chunks : List Bytes) :
    (r.feedChunks .keepTailAA chunks).trimmed = ((r.push chunks.flatten).run .keepTailAA).trimmed := by
  induction chunks generalizing r with
  | nil => rw [List.flatten_nil, Reasm.push_nil, run_of_bufInv hinv]; rfl
  | cons c cs ih =>
    obtain ⟨n, h⟩ := feedRun_run .keepTailAA (r.push c)
    rw [Reasm.feedChunks, ih (run_bufInv _ _), feedRun_push h, Reasm.push_push, List.flatten_cons]

end Sys2Proof.Machine

namespace Sys2Proof.Proofs

open Sys2Proof.Machine Sys2Proof.Safety

/-- Settles O45: the buffer always holds the beginning of a frame of the stream. -/
theorem validStreamSurvivesAnyChunking : Obligations.ValidStreamSurvivesAnyChunking := by
  intro packets chunks s hrb hfit hle hstream
  obtain ⟨t, ht, hview⟩ := feedAll_view hle
  have hinv : BufInv s.view.rb := .inl (by simp [hrb])
  have hbytes : s.view.rb ++ chunks.flatten = framesOf packets := by rw [State.view_rb, hrb, hstream]; rfl
  obtain ⟨hout, hempty, hchk⟩ := feedChunks_of_framesOf s.par.nohdrPolicy hfit hinv hbytes
  rw [← hview] at hout hempty hchk
  exact ⟨t, ht, hout, hempty, hchk⟩

/-- Settles O47: any two cuts of the same bytes do what one chunk of them does, but for junk left in RB. -/
theorem keepTailIgnoresChunking : Obligations.KeepTailIgnoresChunking := by
  intro chunks chunks' s hpolicy hinv hle hle' hflat
  obtain ⟨t, ht, hview⟩ := feedAll_view hle
  obtain ⟨t', ht', hview'⟩ := feedAll_view hle'
  have hsame : t.view.trimmed = t'.view.trimmed := by
    rw [hview, hview', hpolicy, feedChunks_trimmed hinv, feedChunks_trimmed hinv, hflat]
  exact ⟨t, t', ht, ht', congrArg Reasm.out hsame, congrArg Reasm.chkErr hsame, congrArg Reasm.rxPkt hsame⟩

/-- Settles O44: the frame's header is the first one, and nothing is left behind the frame. -/
theorem leadingNoiseIsDropped : Obligations.LeadingNoiseIsDropped := by
  intro noise payload cmd s hrb hno hp hle
  have hload : (s.loaded (noise ++ buildFrame cmd payload)).rb = noise ++ buildFrame cmd payload := by simp [hrb]
  rw [exec_feed_run hle, run_of_noise_frame _ (p := ⟨cmd, payload⟩) hno hp hload, feedEffect, ← hrb]
  rfl

/-- Settles O46: the first frame is emitted, the second costs its header, and the rest of it is noise before the third. -/
theorem oneCorruptFrameCostsOnePacket : Obligations.OneCorruptFrameCostsOnePacket := by
  intro p q r wrong s hrb hp hq hr hwrong hno hle
  obtain ⟨t, ht, _, hview⟩ := exec_feed_view hle
  refine ⟨t, ht, ?_⟩
  rw [run_of_frame _ hp (rest := frameBody q.cmd q.payload ++ [wrong] ++ buildFrame r.cmd r.payload) (by simp [hrb]),
    run_of_wrong_checksum _ hq hwrong rfl, run_of_noise_frame _ hno hr rfl] at hview
  have hpkts : t.pkts = s.pkts ++ [p] ++ [r] := congrArg Reasm.out hview
  exact ⟨by rw [hpkts, List.append_assoc]; rfl, congrArg Reasm.rb hview, congrArg Reasm.chkErr hview,
    congrArg Reasm.rxPkt hview⟩

/-- Settles O48: the first chunk holds no header and is discarded, and what follows is too short to be searched; in one chunk the
frame stands behind four bytes of noise. -/
theorem discardAllLosesSplitHeader : Obligations.DiscardAllLosesSplitHeader := by
  intro s hrb hpolicy hmax
  have hno : NoHeader [0x00, 0x01, 0x02, 0x03, 0xAA] := (findHdr_eq_none_iff _).mp (by decide)
  have hnoise : NoHeader [0x00, 0x01, 0x02, 0x03] := (findHdr_eq_none_iff _).mp (by decide)
  have hempty : s.view = { s.view with rb := [] } := by rw [State.view, hrb]
  have hdiscard : (s.view.push [0x00, 0x01, 0x02, 0x03, 0xAA]).run .discardAll = s.view := by
    rw [hempty]
    exact run_of_noHeader (r := Reasm.push { s.view with rb := [] } _) le_rfl hno
  have hwait : (s.view.push [0x55, 0x01, 0x00, 0xFE]).run .discardAll = s.view.push [0x55, 0x01, 0x00, 0xFE] :=
    run_of_few _ _ (by simp [hrb])
  have hwhole := run_of_noise_frame .discardAll (r := s.view.push [0x00, 0x01, 0x02, 0x03, 0xAA, 0x55, 0x01, 0x00, 0xFE])
    (p := ⟨0x01, []⟩) hnoise (by decide) (by rw [Reasm.push_rb, State.view_rb, hrb]; decide)
  obtain ⟨t, ht, htview⟩ := feedAll_view (s := s) (chunks := [[0x00, 0x01, 0x02, 0x03, 0xAA], [0x55, 0x01, 0x00, 0xFE]])
    (by simp; omega)
  obtain ⟨u, hu, _, huview⟩ := exec_feed_view (s := s) (chunk := [0x00, 0x01, 0x02, 0x03, 0xAA, 0x55, 0x01, 0x00, 0xFE]) hmax
  rw [hpolicy, Reasm.feedChunks, hdiscard, Reasm.feedChunks, hwait, Reasm.feedChunks] at htview
  rw [hpolicy, hwhole] at huview
  have htrb : t.rb = s.rb ++ [0x55, 0x01, 0x00, 0xFE] := congrArg Reasm.rb htview
  rw [hrb] at htrb
  exact ⟨t, u, ht, congrArg Reasm.out htview, htrb, hu, congrArg Reasm.out huview, congrArg Reasm.rb huview⟩

end Sys2Proof.Proofs

/-! # Byte-serial operation (spec/41_reassembler.md R123) -/

namespace Sys2Proof.Machine

open Sys2Proof.Safety

theorem syncState_of_headerAt {rb : Bytes} (h : HeaderAt rb 0) :
    syncState rb = if rb.length ≤ 3 then .header else .body := by
  obtain ⟨_, rfl⟩ | ⟨hs, hlen, _⟩ | ⟨hs, hlen, _⟩ | ⟨_, _, hno⟩ := syncState_cases rb
  · cases h.1
  · rw [hs, if_pos (by omega)]
  · rw [hs, if_neg (by omega)]
  · exact absurd h hno

theorem syncState_eq_hunt_iff {rb : Bytes} : syncState rb = .hunt ↔ rb ≠ [] ∧ ¬ HeaderAt rb 0 := by
  obtain ⟨hs, rfl⟩ | ⟨hs, _, hh⟩ | ⟨hs, _, hh⟩ | ⟨hs, hne, hno⟩ := syncState_cases rb <;> rw [hs]
  · simp
  · simp [hh]
  · simp [hh]
  · simp [hne, hno]

/-- One more byte makes a header at the front only of `AA` and `55`. -/
theorem headerAt_concat_iff {rb : Bytes} {b : Byte} (hne : rb ≠ []) (hno : ¬ HeaderAt rb 0) :
    HeaderAt (rb ++ [b]) 0 ↔ rb = [0xAA#8] ∧ b = 0x55#8 := by
  match rb with
  | [] => exact absurd rfl hne
  | [a] => simp [HeaderAt]
  | a :: c :: s =>
    refine ⟨fun h => absurd ((headerAt_append_iff (by simp) [b]).mp h) hno, fun h => ?_⟩
    cases h.1

section byteSerial

variable {rb : Bytes} {b : Byte}

theorem syncState_concat_of_idle (h : syncState rb = .idle) : syncState (rb ++ [b]) = .hunt := by
  obtain ⟨_, rfl⟩ | ⟨hs, _⟩ | ⟨hs, _⟩ | ⟨hs, _⟩ := syncState_cases rb
  · exact syncState_eq_hunt_iff.mpr ⟨nofun, nofun⟩
  all_goals rw [hs] at h; cases h

theorem syncState_concat_of_hunt (h : syncState rb = .hunt) :
    syncState (rb ++ [b]) = if rb = [0xAA#8] ∧ b = 0x55#8 then .header else .hunt := by
  obtain ⟨hne, hno⟩ := syncState_eq_hunt_iff.mp h
  by_cases hhdr : rb = [0xAA#8] ∧ b = 0x55#8
  · rw [if_pos hhdr, hhdr.1, hhdr.2]
    decide
  · rw [if_neg hhdr]
    exact syncState_eq_hunt_iff.mpr ⟨by simp, fun hat => hhdr ((headerAt_concat_iff hne hno).mp hat)⟩

theorem headerAt_of_header_or_body (h : syncState rb = .header ∨ syncState rb = .body) : HeaderAt rb 0 := by
  obtain ⟨hs, _⟩ | ⟨_, _, hh⟩ | ⟨_, _, hh⟩ | ⟨hs, _⟩ := syncState_cases rb
  · rw [hs] at h; simp at h
  · exact hh
  · exact hh
  · rw [hs] at h; simp at h

/-- A header at the front stays there, and the sync state is told by the length. -/
theorem syncState_concat_of_headerAt (h : HeaderAt rb 0) :
    syncState (rb ++ [b]) = if rb.length = 2 then .header else .body := by
  have hlt := headerAt_lt h
  rw [syncState_of_headerAt ((headerAt_append_iff hlt [b]).mpr h), List.length_append, List.length_singleton]
  exact if_congr (by omega) rfl rfl

theorem keptTail_concat (policy : NohdrPolicy) : keptTail policy (rb ++ [b]) =
    if policy = .keepTailAA ∧ b = 0xAA#8 then [0xAA#8] else [] := by
  simp only [keptTail, List.getLast?_concat, Option.some.injEq]

end byteSerial

/-! ### A frame whose last byte has arrived -/

section lastByte

variable {policy : NohdrPolicy} {r : Reasm} {len : Byte} (hh : HeaderAt r.rb 0) (hlen : r.rb[3]? = some len)
  (hall : r.rb.length = 5 + len.toNat)

include hh hlen hall

theorem run_of_last_byte_ok {p : Packet} (hok : decodeResult r.rb = .ok p) :
    r.run policy = { r with rb := [], rxPkt := satInc r.rxPkt, out := r.out ++ [p] } := by
  rw [run_of_ok hh hlen hall.ge (by rwa [← hall, List.take_length]), ← hall, List.drop_length]
  exact run_of_few policy _ (Nat.succ_pos 4)

theorem run_of_last_byte_failed (hfail : ∀ p, decodeResult r.rb ≠ .ok p) :
    r.run policy = Reasm.run policy { r with rb := r.rb.drop 2, chkErr := satInc r.chkErr } := by
  obtain ⟨p, hok⟩ | hbad := decodeResult_candidate hh hlen hall.ge
  · rw [← hall, List.take_length] at hok
    exact absurd hok (hfail p)
  · exact run_of_mismatch hh hlen hall.ge hbad

end lastByte

/-! ### A fifth byte behind four without a header -/

section fifthByte

variable {policy : NohdrPolicy} {r : Reasm}

/-- Five bytes with the first header behind the front: the search drops what stands before it, and too few bytes are left to go
on. -/
theorem run_of_five_firstHeader {k : Nat} (h5 : r.rb.length = 5) (hk : FirstHeader r.rb k) (hpos : 0 < k) :
    r.run policy = { r with rb := r.rb.drop k } := by
  rw [run_drop_firstHeader (by omega) hk]
  exact run_of_bufInv (.inl (by rw [List.length_drop]; omega))

/-- Five bytes without a header at the front emit nothing. -/
theorem run_out_of_five (h5 : r.rb.length = 5) (hno : ¬ HeaderAt r.rb 0) : (r.run policy).out = r.out := by
  obtain hnone | ⟨k, hk⟩ := noHeader_or_firstHeader r.rb
  · rw [run_of_noHeader (by omega) hnone]
  · have hpos : 0 < k := Nat.pos_of_ne_zero fun hzero => hno (hzero ▸ hk.1)
    rw [run_of_five_firstHeader h5 hk hpos]

/-- What the fifth byte behind four in HUNT does (R123). -/
theorem run_of_fifth_byte {b : Byte} (hhunt : syncState r.rb = .hunt) (h4 : r.rb.length = 4) :
    ((r.push [b]).run policy).out = r.out ∧
    (∀ k, 0 < k → FirstHeader (r.rb ++ [b]) k → ((r.push [b]).run policy).rb = (r.rb ++ [b]).drop k ∧
      syncState ((r.push [b]).run policy).rb = if 5 - k ≤ 3 then .header else .body) ∧
    (NoHeader (r.rb ++ [b]) → ((r.push [b]).run policy).rb = if policy = .keepTailAA ∧ b = 0xAA#8 then [0xAA#8] else []) := by
  obtain ⟨_, hno⟩ := syncState_eq_hunt_iff.mp hhunt
  have h5 : (r.push [b]).rb.length = 5 := by simp [h4]
  refine ⟨run_out_of_five h5 fun hat => hno ((headerAt_append_iff (by omega) [b]).mp hat), fun k hpos hk => ?_, fun hnone => ?_⟩
  · rw [run_of_five_firstHeader h5 hk hpos]
    have hsync := syncState_of_headerAt (headerAt_drop hk.1)
    rw [List.length_drop, List.length_append, h4] at hsync
    exact ⟨rfl, hsync⟩
  · rw [run_of_noHeader (by omega) hnone]
    exact keptTail_concat policy

end fifthByte

end Sys2Proof.Machine

namespace Sys2Proof.Proofs

open Sys2Proof.Machine Sys2Proof.Safety

/-- Settles O50, clause by clause of R123. -/
theorem byteSerialTransitions : Obligations.ByteSerialTransitions := by
  intro b s hmax _
  obtain ⟨t, ht, _, hview⟩ := exec_feed_view (chunk := [b]) hmax
  have hrb : t.rb = ((s.view.push [b]).run s.par.nohdrPolicy).rb := congrArg Reasm.rb hview
  have hpkts : t.pkts = ((s.view.push [b]).run s.par.nohdrPolicy).out := congrArg Reasm.out hview
  have hlength : (s.rb ++ [b]).length = s.rb.length + 1 := by simp
  refine ⟨t, ht, fun h3 => ?_, fun hbody len hlen => ?_, fun hhunt h4 => ?_⟩
  · rw [run_of_few _ (s.view.push [b]) (by simp; omega)] at hrb hpkts
    rw [hrb]
    exact ⟨rfl, hpkts, fun h => syncState_concat_of_idle h, fun h => syncState_concat_of_hunt h,
      fun h => syncState_concat_of_headerAt (headerAt_of_header_or_body (.inl h))⟩
  · have hh := headerAt_of_header_or_body (.inr hbody)
    have hh' : HeaderAt (s.rb ++ [b]) 0 := (headerAt_append_iff (headerAt_lt hh) [b]).mpr hh
    have h3 := (List.getElem?_eq_some_iff.mp hlen).1
    have hlen' : (s.rb ++ [b])[3]? = some len := (List.getElem?_append_left h3).trans hlen
    refine ⟨fun hlt => ?_, fun heq => ?_⟩
    · rw [run_of_bufInv (r := s.view.push [b]) (bufInv_of_partial hh' hlen' (hlength.trans_lt hlt))] at hrb hpkts
      rw [hrb]
      exact ⟨rfl, (syncState_concat_of_headerAt hh).trans (if_neg (by omega)), hpkts⟩
    · have hall : (s.view.push [b]).rb.length = 5 + len.toNat := hlength.trans heq
      refine ⟨fun p hok => ?_, fun hfail => ?_⟩
      · rw [run_of_last_byte_ok (r := s.view.push [b]) hh' hlen' hall hok] at hview
        have hempty : t.rb = [] := congrArg Reasm.rb hview
        exact ⟨hempty, hempty ▸ rfl, congrArg Reasm.out hview, congrArg Reasm.rxPkt hview, congrArg Reasm.chkErr hview⟩
      · rw [run_of_last_byte_failed (r := s.view.push [b]) hh' hlen' hall hfail] at hview
        obtain ⟨u, hu, _, huview⟩ := exec_feed_view (chunk := [])
          (s := { s with rb := (s.rb ++ [b]).drop 2, chkErr := satInc s.chkErr }) (Nat.zero_le _)
        rw [Reasm.push_nil] at huview
        have hsame : t.view = u.view := hview.trans huview.symm
        exact ⟨u, hu, congrArg Reasm.rb hsame, congrArg Reasm.chkErr hsame, congrArg Reasm.rxPkt hsame,
          congrArg Reasm.out hsame⟩
  · have hfifth := run_of_fifth_byte (policy := s.par.nohdrPolicy) (r := s.view) (b := b) hhunt h4
    rw [← hview] at hfifth
    obtain ⟨hout, hheader, hnoHeader⟩ := hfifth
    refine ⟨hout, fun hk => hheader 1 (by omega) hk, fun k hk2 hk => ?_, fun hnone => ⟨fun hkeep => ?_, fun hclear => ?_⟩⟩
    · obtain ⟨hdrop, hsync⟩ := hheader k (by omega) hk
      exact ⟨hdrop, hsync.trans (if_pos (by omega))⟩
    · have hAA : t.rb = [0xAA#8] := (hnoHeader hnone).trans (if_pos hkeep)
      rw [hAA]
      exact ⟨rfl, rfl⟩
    · have hempty : t.rb = [] := (hnoHeader hnone).trans (if_neg hclear)
      rw [hempty]
      exact ⟨rfl, rfl⟩

end Sys2Proof.Proofs

/-! # The status read: the value each index names (spec/42_status.md) -/

namespace Sys2Proof.Machine

open Sys2Proof.Safety

/-- `STATUS` as R131 writes it, with the number of R29 in its low bits. -/
theorem statusWord_eq_or_syncCode (rb : Bytes) :
    statusWord rb = (BitVec.ofNat 32 rb.length <<< 16) ||| BitVec.ofNat 32 (syncCode rb) := by
  rw [statusWord, ← syncState_code_toNat, BitVec.ofNat_toNat, BitVec.setWidth_eq]

end Sys2Proof.Machine

namespace Sys2Proof.Proofs

open Sys2Proof.Machine Sys2Proof.Safety

/-- Settles O28: `op` 100 is an arm of the decoder, and the read answers the register that the table of R131 names. -/
theorem readStatusReturnsRegister : Obligations.ReadStatusReturnsRegister := by
  refine ⟨fun r hop => by rw [decodeRequest, hop]; rfl, fun s => ⟨?_, ?_, ?_, ?_⟩⟩
  · exact exec_readStatus 0 s
  · exact exec_readStatus 1 s
  · rw [← statusWord_eq_or_syncCode]
    exact exec_readStatus 2 s
  · exact exec_readStatus 3 s

end Sys2Proof.Proofs

/-! # Refusals, status codes and the idle step (spec/60_exceptions.md) -/

namespace Sys2Proof.Machine

open Sys2Proof.Safety

/-! ### Refusals (R80, R147) -/

/-- A chunk past the limit is refused (R147). -/
theorem exec_feed_of_lt {chunk : Bytes} {s : State} (h : s.par.chunkMax < chunk.length) :
    exec (.feed chunk) s = .refused .oversizeChunk := by
  rcases execFeed_cases chunk s with ⟨_, hf⟩ | ⟨hle, _⟩
  · exact (exec_feed chunk s).trans hf
  · exact absurd h (Nat.not_lt_of_le hle)

/-- An input past the limit is refused (R147). -/
theorem exec_decode_of_lt {buf : Bytes} {s : State} (h : s.par.decInMax < buf.length) :
    exec (.decode buf) s = .refused .oversizeDecodeInput := by
  rcases exec_decode_cases buf s with ⟨_, hd⟩ | ⟨hle, _⟩
  · exact hd
  · exact absurd h (Nat.not_lt_of_le hle)

/-- What a refused instruction is: a reserved row, or a `FEED` or a `DECODE` past its limit. -/
theorem exec_refused_cases {i : Instr} {s : State} {ρ : Refusal} (h : exec i s = .refused ρ) :
    (ρ = .reservedOp ∧ ReservedOpRow i) ∨
    (ρ = .oversizeChunk ∧ ∃ chunk, i = .feed chunk ∧ s.par.chunkMax < chunk.length) ∨
    (ρ = .oversizeDecodeInput ∧ ∃ buf, i = .decode buf ∧ s.par.decInMax < buf.length) := by
  cases i with
  | encode cmd payload => cases h
  | decode buf =>
    rcases exec_decode_cases buf s with ⟨hlt, hd⟩ | ⟨_, hd⟩ <;> rw [hd] at h
    · cases h
      exact .inr (.inr ⟨rfl, buf, rfl, hlt⟩)
    · cases h
  | feed chunk =>
    rw [exec_feed] at h
    rcases execFeed_cases chunk s with ⟨hlt, hf⟩ | ⟨_, hf⟩ <;> rw [hf] at h
    · cases h
      exact .inr (.inl ⟨rfl, chunk, rfl, hlt⟩)
    · cases h
  | readStatus idx => cases h
  | reservedOp000 => cases h; exact .inl ⟨rfl, .inl rfl⟩
  | reservedOp101 => cases h; exact .inl ⟨rfl, .inr (.inl rfl)⟩
  | reservedOp110 => cases h; exact .inl ⟨rfl, .inr (.inr (.inl rfl))⟩
  | reservedOp111 => cases h; exact .inl ⟨rfl, .inr (.inr (.inr rfl))⟩
  | ping payload => cases h
  | ledControl payload => cases h
  | emergencyStop payload => cases h
  | reservedCmd cmd payload => cases h

/-! ### The verdicts of `DECODE` by their causes (R89, R140) -/

theorem frameTotal_eq (buf : Bytes) : frameTotal buf = 5 + lenField buf := by
  rw [frameTotal]
  omega

/-- The two causes of `Incomplete`: fewer bytes than any frame has, or fewer than LEN declares behind a header. -/
theorem decodePacket_of_incomplete {buf : Bytes}
    (h : buf.length < 5 ∨ (HeaderAt buf 0 ∧ buf.length < 5 + lenField buf)) : decodePacket buf = .error .incomplete := by
  have htotal := frameTotal_eq buf
  rcases decodePacket_cases buf with ⟨hd, _⟩ | ⟨_, h5, hno⟩ | ⟨hd, _⟩ | ⟨_, _, hle, _⟩ | ⟨_, _, hle, _⟩
  · exact hd
  · rcases h with hlt | ⟨hh, _⟩
    · omega
    · exact absurd hh hno
  · exact hd
  · omega
  · omega

/-- A complete candidate is judged by its checksum byte. -/
theorem decodePacket_of_complete {buf : Bytes} (hh : HeaderAt buf 0) (hle : 5 + lenField buf ≤ buf.length) :
    decodePacket buf =
      if byteAt buf (4 + lenField buf) = checksum buf (lenField buf) then
        .ok ⟨cmdField buf, slice buf 4 (4 + lenField buf)⟩
      else .error .checksumMismatch := by
  have htotal := frameTotal_eq buf
  rcases decodePacket_cases buf with ⟨_, hlt⟩ | ⟨_, _, hno⟩ | ⟨_, _, _, hlt⟩ | ⟨hd, _, _, hck⟩ | ⟨hd, _, _, hck⟩
  · omega
  · exact absurd hh hno
  · omega
  · rw [hd, if_neg hck]
  · rw [hd, if_pos hck]

end Sys2Proof.Machine

namespace Sys2Proof.Proofs

open Sys2Proof.Machine Sys2Proof.Safety

/-- Settles O21: a refusal has one of the three causes, and each cause is refused with its own reason. -/
theorem refusedExactlyInThreeCases : Obligations.RefusedExactlyInThreeCases := by
  refine fun i s ρ => ⟨exec_refused_cases, ?_⟩
  rintro (⟨rfl, hrow⟩ | ⟨rfl, chunk, rfl, hlt⟩ | ⟨rfl, buf, rfl, hlt⟩)
  · exact exec_reservedOpRow hrow s
  · exact exec_feed_of_lt hlt
  · exact exec_decode_of_lt hlt

/-- Settles O19, with the idle step that log entry 2 chooses: an empty queue is the first arm of `step`. -/
theorem idleKeepsAllState : Obligations.IdleKeepsAllState := by
  intro s hidle
  simp only [step, hidle]

/-- Settles O27: each operation appends one result, and the case it is in names the code. -/
theorem resultCodes : Obligations.ResultCodes := by
  refine ⟨fun cmd payload s => ?_, fun buf s hbuf => ?_, fun chunk s hchunk => ?_, fun idx s => ?_⟩
  · rcases sendFrame_cases cmd payload s with ⟨hlt, hsend⟩ | ⟨hle, hsend⟩
    · exact ⟨_, _, (exec_encode cmd payload s).trans (congrArg _ hsend), rfl, (if_pos hlt).symm⟩
    · exact ⟨_, _, (exec_encode cmd payload s).trans (congrArg _ hsend), rfl, (if_neg (Nat.not_lt_of_le hle)).symm⟩
  · refine ⟨_, _, exec_decode_next_iff.mpr ⟨hbuf, rfl⟩, rfl, fun hshort => ?_, fun ⟨h5, hno⟩ => ?_, fun ⟨hh, hle⟩ => ?_⟩
    · rw [decodePacket_of_incomplete hshort]
      rfl
    · rw [decodePacket_of_not_headerAt h5 hno]
      rfl
    · have hverdict := decodePacket_of_complete hh hle
      refine ⟨fun hck => ?_, fun hck => ?_⟩
      · rw [hverdict.trans (if_neg hck)]
        rfl
      · rw [hverdict.trans (if_pos hck)]
        rfl
  · exact ⟨_, _, exec_feed_of_le hchunk, rfl, rfl⟩
  · exact ⟨_, _, exec_readStatus idx s, rfl, rfl⟩

end Sys2Proof.Proofs

/-! # Reset (spec/70_reset_and_hazards.md) -/

namespace Sys2Proof.Machine

/-- A `RESET` at the head of the queue carries no instruction, so the step does what R163 says. -/
theorem step_of_reset {s : State} {rest : List Event} (h : s.pending = .reset :: rest) :
    step s = .next (State.takeReset { s with pending := rest }) := by
  have hdecode : decodeEvent .reset = none := rfl
  simp only [step, h, hdecode]

/-- What `RESET` writes (R163): RB and the two counters, and nothing else. -/
theorem State.takeReset_writes (s : State) : s.takeReset = { s with rb := [], chkErr := 0, rxPkt := 0 } := rfl

end Sys2Proof.Machine

namespace Sys2Proof.Proofs

open Sys2Proof.Machine

/-- Settles O18, with the queue and the model's own records as log entries 2 and 3 choose them: the step is `takeReset` behind
the event, which writes RB and the two counters. -/
theorem resetClearsBufferAndCounters : Obligations.ResetClearsBufferAndCounters := by
  intro s rest hreset
  rw [step_of_reset hreset, State.takeReset_writes]

end Sys2Proof.Proofs
